-- ==== Sys2Proof/Word.lean ====
section
/-! DEFINITION. The words the block is made of (00_scope.md rules R6 and R8): 32-bit register and bus words, 8-bit command
fields, 48-bit command words. All values are unsigned. -/

namespace Sys2Proof

/-- A register or bus word, REG_W = 32 bits (R8, R30). -/
abbrev Word := BitVec 32

/-- The 8-bit `op` and `a` fields of a command word (R90). -/
abbrev Byte := BitVec 8

/-- A command word `W = {op, a, b}` (R90). -/
abbrev CommandWord := BitVec 48

/-- A non-zero callback reference when it stands in the callback slot, CB_W = 32 bits (R47, R112). -/
abbrev Reference := BitVec 32

end Sys2Proof
end

