-- ==== Sys2Proof/Syntax.lean ====
section
/-! DEFINITION. The 13 operations of 30_encoding.md rule R93 as terms, with the operands rule R92 gives them. An operand
that the command word can hold out of its legal range (an identifier of 139 or more, a kind of 11 or more, a priority
above 7) is an operand here too: the operation answers it with a result code (R101, R143, R204). -/

namespace Sys2Proof

/-- One constructor per row of spec/opcode_table.json. -/
inductive Instr where
  | enableIRQ (id : Byte)
  | disableIRQ (id : Byte)
  | setPriorityIRQ (id : Byte) (priority : Word)
  | enableException (kind : Byte)
  | disableException (kind : Byte)
  | setPriorityException (kind : Byte) (priority : Word)
  | init (periodMs : Word)
  | startBusyWait (periodMs : Word)
  /-- `none` is the word 0 on the command port (R92, R109). -/
  | setCallBack (fn : Option Reference)
  | handler
  | start
  | stop
  | deInit
  deriving DecidableEq, Repr

end Sys2Proof
end

