-- ==== Sys2Proof/WellFormed.lean ====
section
/-! DEFINITION. Which terms of the syntax are commands. Field widths are in the types; the one thing a type does not say is
that a callback reference in `some` is not zero, since the word 0 stands for `none` (10_state.md R47, 30_encoding.md R92). -/

namespace Sys2Proof

/-- A callback slot value is `none` or a NON-ZERO reference (R47). -/
def callbackWellFormed : Option Reference → Bool
  | none => true
  | some g => g != 0

/-- The check of an instruction term. -/
def Instr.wellFormed : Instr → Bool
  | .enableIRQ _ => true
  | .disableIRQ _ => true
  | .setPriorityIRQ _ _ => true
  | .enableException _ => true
  | .disableException _ => true
  | .setPriorityException _ _ => true
  | .init _ => true
  | .startBusyWait _ => true
  | .setCallBack fn => callbackWellFormed fn
  | .handler => true
  | .start => true
  | .stop => true
  | .deInit => true

end Sys2Proof
end

