-- ==== Sys2Proof/Decode.lean ====
section
/-! DEFINITION. The decoder, the encoder and the textual form of a command word (30_encoding.md rules R90 to R95, R104, R109). -/

namespace Sys2Proof

/-- Why a command word is no operation. -/
inductive DecodeError where
  /-- `op = 0x00` or `op >= 0x0E` (R104). -/
  | reservedOpcode (op : Byte)
  deriving DecidableEq, Repr

/-- `W[47:40]` (R90). -/
def CommandWord.op (w : CommandWord) : Byte := w.extractLsb' 40 8

/-- `W[39:32]` (R90). -/
def CommandWord.a (w : CommandWord) : Byte := w.extractLsb' 32 8

/-- `W[31:0]` (R90). -/
def CommandWord.b (w : CommandWord) : Word := w.extractLsb' 0 32

/-- `W = {op, a, b}` (R90). -/
def CommandWord.ofFields (op a : Byte) (b : Word) : CommandWord := op ++ a ++ b

/-- The callback operand a port word stands for: 0 is `none`, any other `f` is `some f` (R92, D25). -/
def callbackOfWord (b : Word) : Option Reference := if b = 0 then none else some b

/-- The port word of a callback operand. -/
def wordOfCallback : Option Reference → Word
  | none => 0
  | some g => g

/-- The operation of the fields (R93); the fields R93 does not list for an operation are ignored (R95). -/
def decodeFields (op a : Byte) (b : Word) : Except DecodeError Instr :=
  match op.toNat with
  | 0x01 => .ok (.enableIRQ a)
  | 0x02 => .ok (.disableIRQ a)
  | 0x03 => .ok (.setPriorityIRQ a b)
  | 0x04 => .ok (.enableException a)
  | 0x05 => .ok (.disableException a)
  | 0x06 => .ok (.setPriorityException a b)
  | 0x07 => .ok (.init b)
  | 0x08 => .ok (.startBusyWait b)
  | 0x09 => .ok (.setCallBack (callbackOfWord b))
  | 0x0A => .ok .handler
  | 0x0B => .ok .start
  | 0x0C => .ok .stop
  | 0x0D => .ok .deInit
  | _ => .error (.reservedOpcode op)

/-- The decoder: every 48-bit word is one of the 13 operations or a reserved opcode (R90, R93, R104). -/
def decode (w : CommandWord) : Except DecodeError Instr := decodeFields w.op w.a w.b

/-- The opcode of R93. -/
def Instr.opcode : Instr → Byte
  | .enableIRQ _ => 0x01
  | .disableIRQ _ => 0x02
  | .setPriorityIRQ _ _ => 0x03
  | .enableException _ => 0x04
  | .disableException _ => 0x05
  | .setPriorityException _ _ => 0x06
  | .init _ => 0x07
  | .startBusyWait _ => 0x08
  | .setCallBack _ => 0x09
  | .handler => 0x0A
  | .start => 0x0B
  | .stop => 0x0C
  | .deInit => 0x0D

/-- The `a` field; 0 where the operation ignores it ("An assembler writes zeros there", R95). -/
def Instr.fieldA : Instr → Byte
  | .enableIRQ id => id
  | .disableIRQ id => id
  | .setPriorityIRQ id _ => id
  | .enableException kind => kind
  | .disableException kind => kind
  | .setPriorityException kind _ => kind
  | .init _ => 0
  | .startBusyWait _ => 0
  | .setCallBack _ => 0
  | .handler => 0
  | .start => 0
  | .stop => 0
  | .deInit => 0

/-- The `b` field; 0 where the operation ignores it (R95). -/
def Instr.fieldB : Instr → Word
  | .enableIRQ _ => 0
  | .disableIRQ _ => 0
  | .setPriorityIRQ _ priority => priority
  | .enableException _ => 0
  | .disableException _ => 0
  | .setPriorityException _ priority => priority
  | .init periodMs => periodMs
  | .startBusyWait periodMs => periodMs
  | .setCallBack fn => wordOfCallback fn
  | .handler => 0
  | .start => 0
  | .stop => 0
  | .deInit => 0

/-- The command word of an instruction, zeros in the ignored fields (R90, R93, R95). -/
def encode (i : Instr) : CommandWord := CommandWord.ofFields i.opcode i.fieldA i.fieldB

/-- The instruction the decoder reads from a word numbered as spec/opcode_table.json numbers it: one 48-bit word, bit 0 its
least significant bit, so `op` is bits 47..40. Bits above `nbits` are 0. -/
def decodeTableWord (nbits w : Nat) : Option Instr :=
  match decode (BitVec.ofNat 48 (w % 2 ^ nbits)) with
  | .ok i => some i
  | .error _ => none

/-! The textual form (R109): the mnemonic, then the operands `a`, `b` in parentheses. Numbers are decimal, or hexadecimal after
`0x`; a kind is a name of R94 or a number; `none` is the callback operand 0. `Instr.text` writes it and `assemble` reads it. -/

/-- The mnemonics of R93, which are the source's operation names. -/
def Instr.mnemonic : Instr → String
  | .enableIRQ _ => "EnableIRQ"
  | .disableIRQ _ => "DisableIRQ"
  | .setPriorityIRQ _ _ => "SetPriorityIRQ"
  | .enableException _ => "EnableException"
  | .disableException _ => "DisableException"
  | .setPriorityException _ _ => "SetPriorityException"
  | .init _ => "Init"
  | .startBusyWait _ => "StartBusyWait"
  | .setCallBack _ => "SetCallBack"
  | .handler => "Handler"
  | .start => "Start"
  | .stop => "Stop"
  | .deInit => "DeInit"

/-- The names of the exception kinds with their numbers (R94). -/
def kindNames : List (String × Nat) :=
  [("RESET", 0), ("NMI", 1), ("HARD_FAULT", 2), ("MEM_FAULT", 3), ("BUS_FAULT", 4), ("USAGE_FAULT", 5), ("SVC", 6),
   ("DEBUG_MONITOR", 7), ("PEND_SV", 8), ("SYSTICK", 9), ("ALL_INTERRUPTS", 10)]

/-- A kind is written by its name where it has one, else by its number (R109). -/
def kindText (kind : Byte) : String :=
  match kindNames.find? (fun p => p.2 == kind.toNat) with
  | some p => p.1
  | none => toString kind.toNat

/-- The operands of a command, as text, in the order `a`, `b` (R109). -/
def Instr.operandTexts : Instr → List String
  | .enableIRQ id => [toString id.toNat]
  | .disableIRQ id => [toString id.toNat]
  | .setPriorityIRQ id priority => [toString id.toNat, toString priority.toNat]
  | .enableException kind => [kindText kind]
  | .disableException kind => [kindText kind]
  | .setPriorityException kind priority => [kindText kind, toString priority.toNat]
  | .init periodMs => [toString periodMs.toNat]
  | .startBusyWait periodMs => [toString periodMs.toNat]
  | .setCallBack none => ["none"]
  | .setCallBack (some g) => [toString g.toNat]
  | .handler => []
  | .start => []
  | .stop => []
  | .deInit => []

/-- The text of a command (R109). -/
def Instr.text (i : Instr) : String := i.mnemonic ++ "(" ++ String.intercalate ", " i.operandTexts ++ ")"

/-- One digit of a number in base 10 or 16. -/
def digitValue (base : Nat) (c : Char) : Option Nat :=
  let n := c.toNat
  let v := if 48 ≤ n ∧ n ≤ 57 then some (n - 48)
    else if 65 ≤ n ∧ n ≤ 70 then some (n - 55)
    else if 97 ≤ n ∧ n ≤ 102 then some (n - 87)
    else none
  v.filter (fun d => decide (d < base))

/-- The value of a run of digits, most significant first. -/
def digitsValue (base : Nat) : Nat → List Char → Option Nat
  | acc, [] => some acc
  | acc, c :: cs =>
    match digitValue base c with
    | some d => digitsValue base (acc * base + d) cs
    | none => none

/-- A number: decimal, or hexadecimal with `0x` (R109). -/
def parseNumber : List Char → Option Nat
  | [] => none
  | '0' :: 'x' :: c :: cs => digitsValue 16 0 (c :: cs)
  | c :: cs => digitsValue 10 0 (c :: cs)

/-- A number that fits a field of `width` bits. -/
def parseField (width : Nat) (cs : List Char) : Option (BitVec width) :=
  match parseNumber cs with
  | some n => if n < 2 ^ width then some (BitVec.ofNat width n) else none
  | none => none

/-- A kind: a name of R94 or a number (R109). -/
def parseKind (cs : List Char) : Option Byte :=
  match kindNames.find? (fun p => p.1.toList == cs) with
  | some p => some (BitVec.ofNat 8 p.2)
  | none => parseField 8 cs

/-- A callback operand: `none` or a number (R109). -/
def parseCallback (cs : List Char) : Option Word :=
  if cs = "none".toList then some 0 else parseField 32 cs

/-- The text up to the first `c`, and what follows it. -/
def splitAtChar (c : Char) : List Char → List Char × List Char
  | [] => ([], [])
  | d :: ds => if d = c then ([], ds) else (d :: (splitAtChar c ds).1, (splitAtChar c ds).2)

/-- The operands between the parentheses, blanks dropped: none, one, or two parted by a comma. -/
def splitOperands (cs : List Char) : List (List Char) :=
  match cs.filter (fun c => c != ' ') with
  | [] => []
  | d :: ds =>
    match splitAtChar ',' (d :: ds) with
    | (x, []) => if (d :: ds).getLast? = some ',' then [x, []] else [x]
    | (x, y :: ys) => [x, y :: ys]

/-- The fields of a command from its mnemonic and operand texts (R93, R109). -/
def assembleFields (mnemonic : List Char) (operands : List (List Char)) : Option CommandWord :=
  let a8 := fun (op : Byte) (r : Option Byte) => r.map (fun a => CommandWord.ofFields op a 0)
  let ab := fun (op : Byte) (r : Option Byte) (p : Option Word) =>
    r.bind (fun a => p.map (fun b => CommandWord.ofFields op a b))
  let b32 := fun (op : Byte) (r : Option Word) => r.map (fun b => CommandWord.ofFields op 0 b)
  match operands with
  | [] =>
    if mnemonic = "Handler".toList then some (CommandWord.ofFields 0x0A 0 0)
    else if mnemonic = "Start".toList then some (CommandWord.ofFields 0x0B 0 0)
    else if mnemonic = "Stop".toList then some (CommandWord.ofFields 0x0C 0 0)
    else if mnemonic = "DeInit".toList then some (CommandWord.ofFields 0x0D 0 0)
    else none
  | [x] =>
    if mnemonic = "EnableIRQ".toList then a8 0x01 (parseField 8 x)
    else if mnemonic = "DisableIRQ".toList then a8 0x02 (parseField 8 x)
    else if mnemonic = "EnableException".toList then a8 0x04 (parseKind x)
    else if mnemonic = "DisableException".toList then a8 0x05 (parseKind x)
    else if mnemonic = "Init".toList then b32 0x07 (parseField 32 x)
    else if mnemonic = "StartBusyWait".toList then b32 0x08 (parseField 32 x)
    else if mnemonic = "SetCallBack".toList then b32 0x09 (parseCallback x)
    else none
  | [x, y] =>
    if mnemonic = "SetPriorityIRQ".toList then ab 0x03 (parseField 8 x) (parseField 32 y)
    else if mnemonic = "SetPriorityException".toList then ab 0x06 (parseKind x) (parseField 32 y)
    else none
  | _ => none

/-- The command word of a text `Mnemonic(a, b)` (R109). -/
def assemble (text : String) : Option CommandWord :=
  match splitAtChar '(' text.toList with
  | (mnemonic, rest) =>
    match splitAtChar ')' rest with
    | (inside, []) => if rest.getLast? = some ')' then assembleFields mnemonic (splitOperands inside) else none
    | (_, _ :: _) => none

end Sys2Proof
end

