-- ==== Sys2Proof/Config.lean ====
section
/-! DEFINITION. What an implementation fixes (00_scope.md rules R6 and R7) and the values the spec leaves open. A `Config` is
plain data: State carries one, so that a claim about every state is a claim about every configuration (92_eei_decisions.md:
an OPEN point "stays a named parameter that the model takes as an argument"). No step changes it. -/

namespace Sys2Proof

/-- What a read of a disable register returns (R32, D9); OPEN. -/
inductive DisReadMode where
  | zero
  | enableState
  deriving DecidableEq, Repr

/-- Whether bits 4..0 of a priority lane are storage (R35, D11). -/
inductive PriLowBits where
  | stored
  | razWi
  deriving DecidableEq, Repr

/-- What an out-of-range priority does (R102, D12). -/
inductive PrioPolicy where
  | truncate
  | reject
  deriving DecidableEq, Repr

/-- The parameters of R7. The bound on `nIrq` is R7's own ("at most 140"): it makes every selector an encoder computes one of
the 52 (20_memory.md R72). -/
structure Config where
  /-- N_IRQ, the number of interrupt lines. -/
  nIrq : Fin 141
  /-- TICKS_PER_MS, OPEN. -/
  ticksPerMs : Word
  /-- TIMER_BITS, OPEN: the width of TRELOAD and TCURRENT. -/
  timerBits : Nat
  disReadMode : DisReadMode
  priLowBits : PriLowBits
  prioPolicy : PrioPolicy
  shcMemBit : Fin 32
  shcBusBit : Fin 32
  shcUsgBit : Fin 32
  tctrlEnableBit : Fin 32
  tctrlTickIntBit : Fin 32
  tctrlClkSrcBit : Fin 32
  tctrlCountFlagBit : Fin 32
  /-- SVC_IMM, OPEN; no rule reads it (R51, D35) and its width is not in the spec. -/
  svcImm : Nat
  /-- ADDR_MAP: the physical address of each register, by selector number (20_memory.md R71, D7); no rule reads it. -/
  addrMap : Vector Nat 52
  deriving DecidableEq, Repr

/-- The ranges 92_eei_decisions.md gives the parameters, and the distinctness R36 and R40 demand. -/
def Config.wellFormed (c : Config) : Bool :=
  decide (1 ≤ c.nIrq.val) && decide (1 ≤ c.ticksPerMs.toNat) && decide (1 ≤ c.timerBits) && decide (c.timerBits ≤ 32)
    && decide (c.shcMemBit ≠ c.shcBusBit) && decide (c.shcMemBit ≠ c.shcUsgBit) && decide (c.shcBusBit ≠ c.shcUsgBit)
    && decide (c.tctrlEnableBit ≠ c.tctrlTickIntBit) && decide (c.tctrlEnableBit ≠ c.tctrlClkSrcBit)
    && decide (c.tctrlEnableBit ≠ c.tctrlCountFlagBit) && decide (c.tctrlTickIntBit ≠ c.tctrlClkSrcBit)
    && decide (c.tctrlTickIntBit ≠ c.tctrlCountFlagBit) && decide (c.tctrlClkSrcBit ≠ c.tctrlCountFlagBit)

/-- The `count` registers from selector number `first` on have addresses 4 bytes apart, in order. -/
def Config.fourApart (c : Config) (first count : Nat) : Bool :=
  (List.range count).all (fun r => c.addrMap.toList.getD (first + r) 0 == c.addrMap.toList.getD first 0 + 4 * r)

/-- What an ADDR_MAP must be: every register address is a multiple of 4 (20_memory.md R65), no two registers share one, and
within each bank of registers (`EN`, `DIS`, `PRI`) consecutive registers are 4 bytes apart (R71). -/
def Config.addrMapWellFormed (c : Config) : Bool :=
  c.addrMap.toList.all (fun a => a % 4 == 0) && decide c.addrMap.toList.Nodup
    && c.fourApart 0 5 && c.fourApart 5 5 && c.fourApart 10 35

/-- The default ADDR_MAP, by selector number: the ARMv7-M addresses of 20_memory.md R71, general knowledge (log 22). -/
def defaultAddress (selector : Nat) : Nat :=
  if selector < 5 then 0xE000E100 + 4 * selector
  else if selector < 10 then 0xE000E180 + 4 * (selector - 5)
  else if selector < 45 then 0xE000E400 + 4 * (selector - 10)
  else
    match selector with
    | 45 => 0xE000ED24
    | 46 => 0xE000ED18
    | 47 => 0xE000ED1C
    | 48 => 0xE000ED20
    | 49 => 0xE000E010
    | 50 => 0xE000E014
    | _ => 0xE000E018

def defaultAddrMap : Vector Nat 52 := ⟨((List.range 52).map defaultAddress).toArray, rfl⟩

/-- TICKS_PER_MS of the machine, less 1: any value of 1 .. 2^32 - 1 (D23, OPEN). A free value: nothing constrains it. -/
opaque Config.openTicksPerMsLess1 : Fin 4294967295

/-- TIMER_BITS of the machine, less 1: any value of 1 .. 32 (D22, OPEN). A free value. -/
opaque Config.openTimerBitsLess1 : Fin 32

/-- Whether the machine's disable registers read the enable state (D9, OPEN). A free value. -/
opaque Config.openDisReadsEnableState : Bool

/-- SVC_IMM of the machine (D35, OPEN). A free value. -/
opaque Config.openSvcImm : Nat

/-- What the `n`-th reset draws for TCTRL.CLKSRC (10_state.md R52: "a model draws it"). A free value. -/
opaque Config.drawnClkSrc : Nat → Bool

/-- What the `n`-th reset draws for TRELOAD, before truncation to TIMER_BITS (R52). A free value. -/
opaque Config.drawnReload : Nat → Word

/-- What the `n`-th reset draws for TCURRENT, before truncation to TIMER_BITS (R52). A free value. -/
opaque Config.drawnCurrent : Nat → Word

/-- The configuration of the machine at reset: R7's defaults, and a free value for each OPEN parameter. -/
def Config.machine : Config where
  nIrq := 139
  ticksPerMs := BitVec.ofNat 32 (Config.openTicksPerMsLess1.val + 1)
  timerBits := Config.openTimerBitsLess1.val + 1
  disReadMode := if Config.openDisReadsEnableState then .enableState else .zero
  priLowBits := .stored
  prioPolicy := .truncate
  shcMemBit := 16
  shcBusBit := 17
  shcUsgBit := 18
  tctrlEnableBit := 0
  tctrlTickIntBit := 1
  tctrlClkSrcBit := 2
  tctrlCountFlagBit := 16
  svcImm := Config.openSvcImm
  addrMap := defaultAddrMap

end Sys2Proof
end

