-- ==== Sys2Proof/Machine/State.lean ====
section
/-! DEFINITION. The state of ICA-TD as plain data (10_state.md), with the reasons a step can stop. Every piece of state the spec
gives the block and its register bank has a field; `cfg`, `inputs` and `draws` are the model's own. -/

namespace Sys2Proof.Machine

/-- The two execution contexts, CTX (R26, R217). -/
inductive Ctx where
  | normal
  | interrupt
  deriving DecidableEq, Repr

/-- The 52 selectors of the register space by name (20_memory.md R70); no other register is reachable (R43, R72). -/
inductive Selector where
  | en (r : Fin 5)
  | dis (r : Fin 5)
  | pri (r : Fin 35)
  | shc
  | syspri1
  | syspri2
  | syspri3
  | tctrl
  | treload
  | tcurrent
  deriving DecidableEq, Repr

/-- The result codes (60_exceptions.md R201). Codes 6 and 7 are never produced, so the type has no name for them (U21). -/
inductive ResultCode where
  | ok
  | errId
  | prioRange
  | nopNoCallback
  | nopUnsupported
  | errOpcode
  deriving DecidableEq, Repr

/-- The events of R76. SVC_REQ, which is an event and not state (R51), is `svc`. -/
inductive Event where
  | read (ctx : Ctx) (s : Selector) (v : Word)
  | write (ctx : Ctx) (s : Selector) (v : Word)
  | cbLoad (ctx : Ctx) (f : Option Reference)
  | cbStore (ctx : Ctx) (f : Option Reference)
  | setIMask (ctx : Ctx) (b : Bool)
  | setFMask (ctx : Ctx) (b : Bool)
  | svc (ctx : Ctx)
  | call (g : Reference)
  | ret (g : Reference)
  | result (ctx : Ctx) (op : Byte) (code : ResultCode)
  | tick
  | dispatch
  | handlerReturn
  deriving DecidableEq, Repr

/-- What happens next from outside the command in progress: the choice of the next agent (R11, R73), which the spec leaves open
(R209, R210, R172), and what NORMAL and CALLBACK do. DESIGN CHOICE, log 2 and log 3. -/
inductive Input where
  /-- The executing context makes its next micro-step (R25). -/
  | micro
  /-- The TIMER agent ticks (R218). -/
  | tick
  /-- The processor's exception logic dispatches the timer interrupt (R210). -/
  | dispatch
  /-- The code running in the current context presents a command word (R90, R91); it waits while a command is in progress. -/
  | present (w : CommandWord)
  /-- The callback returns (R179); it waits while a command of the callback's is in progress. -/
  | callReturn
  /-- The reset event (70_reset_and_hazards.md R240). -/
  | reset
  /-- An unprivileged issuer presents a command: outside the premise PRIVILEGED (R216). -/
  | unprivileged (w : CommandWord)
  /-- Another bus master writes a register: outside the premise NO_OTHER_MASTER (R80). -/
  | otherMaster (s : Selector) (v : Word)
  /-- A supervisor-call handler presents a command: outside the premise NO_SVC_HANDLER_CMDS (R226). -/
  | svcHandler (w : CommandWord)
  deriving DecidableEq, Repr

/-- The latches of one command (R20 to R24). `f` is what `Handler` loaded from CB (R178); `calling` is the reference of a call-out
that has not returned (R179). -/
structure Latches where
  op : Byte
  a : Byte
  b : Word
  t : Word
  f : Option Reference
  ustep : Nat
  calling : Option Reference
  deriving DecidableEq, Repr

/-- One bank (R23): the latches of the command in progress, those of the `Handler`s that wait in `CallOut` below it (innermost
first), and RES (R28). -/
structure Bank where
  cur : Latches
  saved : List Latches
  res : ResultCode
  deriving DecidableEq, Repr

/-- Why the machine stops. -/
inductive Fault where
  /-- Raised by `State.command`, where USTEP names no micro-step of the command in progress; no run from reset gets there
  (R24). Safe: the machine stops where the spec gives no micro-step. -/
  | sequencerOverrun
  deriving DecidableEq, Repr

/-- Why a step has no meaning. -/
inductive Refusal where
  /-- Raised by `exec` for an instruction that has no meaning in the model; no arm does so. Safe. -/
  | notModelled (mnemonic : String)
  /-- Raised by `serve` on the input `unprivileged`: "an unprivileged issuer is refused by the model" (R216, D30, U8). Safe. -/
  | unprivilegedIssuer
  /-- Raised by `serve` on the input `otherMaster`: "`refuse` without premise `NO_OTHER_MASTER`" (R80, U10). Safe. -/
  | otherBusMaster
  /-- Raised by `serve` on the input `svcHandler`: "`refuse` any run in which a supervisor-call handler issues commands"
  (R226, U9). Safe. -/
  | svcHandlerCommand
  deriving DecidableEq, Repr

/-- The state. -/
structure State where
  /-- The configuration (R7); no step changes it. The model's own field. -/
  cfg : Config
  /-- IEN, read through EN and DIS (R31, R32). -/
  ien : BitVec 160
  /-- PRI(0) to PRI(34) (R33). -/
  pri : Vector Word 35
  /-- SHC (R36). -/
  shc : Word
  /-- SYSPRI1 (R37). -/
  syspri1 : Word
  /-- SYSPRI2 (R38). -/
  syspri2 : Word
  /-- SYSPRI3 (R39). -/
  syspri3 : Word
  /-- TCTRL.ENABLE (R40). -/
  enable : Bool
  /-- TCTRL.TICKINT (R40). -/
  tickInt : Bool
  /-- TCTRL.CLKSRC (R40). -/
  clkSrc : Bool
  /-- TCTRL.COUNTFLAG (R40). -/
  countFlag : Bool
  /-- TRELOAD, zero-extended (R41). -/
  treload : Word
  /-- TCURRENT, zero-extended (R42). -/
  tcurrent : Word
  /-- CB (R47). -/
  cb : Option Reference
  /-- TICK_PENDING (R46). -/
  tickPending : Bool
  /-- HANDLER_ACTIVE (R48). -/
  handlerActive : Bool
  /-- IMASK, `true` = masked (R49). -/
  imask : Bool
  /-- FMASK, `true` = masked (R50). -/
  fmask : Bool
  /-- CTX (R26). -/
  ctx : Ctx
  /-- Bank N (R23). -/
  bankN : Bank
  /-- Bank I (R23). -/
  bankI : Bank
  /-- What the agents do next. The model's own field (log 2). -/
  inputs : List Input
  /-- The event history, newest first (R76): evidence only, no rule reads it. -/
  history : List Event
  /-- How many draws reset has made. The model's own field (log 8). -/
  draws : Nat
  deriving DecidableEq, Repr

/-- Latches of an idle bank. OP, A, B and T have no value at reset (R52) and none is read before it is written (R21, R22); the
model holds 0 there. DESIGN CHOICE, log 9. -/
def Latches.idle : Latches where
  op := 0
  a := 0
  b := 0
  t := 0
  f := none
  ustep := 0
  calling := none

/-- A bank after reset (R52). -/
def Bank.atReset : Bank where
  cur := Latches.idle
  saved := []
  res := .ok

/-- The state the `n`-th reset leaves with configuration `cfg` (R52, R240). TRELOAD, TCURRENT and CLKSRC are drawn, and the two
counters hold TIMER_BITS bits of what is drawn. -/
def State.afterReset (cfg : Config) (n : Nat) : State where
  cfg := cfg
  ien := 0
  pri := Vector.replicate 35 0
  shc := 0
  syspri1 := 0
  syspri2 := 0
  syspri3 := 0
  enable := false
  tickInt := false
  clkSrc := Config.drawnClkSrc n
  countFlag := false
  treload := BitVec.ofNat 32 ((Config.drawnReload n).toNat % 2 ^ cfg.timerBits)
  tcurrent := BitVec.ofNat 32 ((Config.drawnCurrent n).toNat % 2 ^ cfg.timerBits)
  cb := none
  tickPending := false
  handlerActive := false
  imask := false
  fmask := false
  ctx := .normal
  bankN := Bank.atReset
  bankI := Bank.atReset
  inputs := []
  history := []
  draws := n + 1

/-- The machine right after reset (R52, R240). -/
def State.reset : State := State.afterReset Config.machine 0

end Sys2Proof.Machine
end

