-- ==== Sys2Proof/Machine/Operands.lean ====
section
/-! DEFINITION. The encoder of 30_encoding.md (rules R94, R96 to R103): from an operand of a command to the register it selects,
the bit or field in it, and the values written. Every function is pure: it reads the operand and the configuration only
(R100). -/

namespace Sys2Proof.Machine

/-- An identifier that has an enable bit and a priority lane: with N_IRQ at most 140 (R7) every in-range identifier is one. -/
abbrev Irq := Fin 140

/-- `IdInRange` (R101): the identifier where `id < N_IRQ`, `none` where it is out of range. No reduction is ever made. -/
def irqInRange (cfg : Config) (id : Byte) : Option Irq :=
  if h : id.toNat < cfg.nIrq.val then some ⟨id.toNat, by have := cfg.nIrq.isLt; omega⟩ else none

/-- `r = id / 32` (R96). -/
def enableReg (i : Irq) : Fin 5 := ⟨i.val / 32, by have := i.isLt; omega⟩

/-- `bit = id % 32` (R96). -/
def enableBit (i : Irq) : Nat := i.val % 32

/-- The one-hot word `m = 1 << bit` (R96). -/
def enableMask (i : Irq) : Word := 1#32 <<< enableBit i

/-- `r = id / 4` (R97). -/
def priorityReg (i : Irq) : Fin 35 := ⟨i.val / 4, by have := i.isLt; omega⟩

/-- `o = (id % 4) * 8 + 5` (R97). -/
def priorityOffset (i : Irq) : Nat := i.val % 4 * 8 + 5

/-- The closed enumeration of exception kinds (R94). -/
inductive Kind where
  | reset
  | nmi
  | hardFault
  | memFault
  | busFault
  | usageFault
  | svc
  | debugMonitor
  | pendSv
  | sysTick
  | allInterrupts
  deriving DecidableEq, Repr

/-- `KindInRange` (R101): the kind of a number (R94), `none` for 11 and above (R105). -/
def kindOf (kind : Byte) : Option Kind :=
  match kind.toNat with
  | 0 => some .reset
  | 1 => some .nmi
  | 2 => some .hardFault
  | 3 => some .memFault
  | 4 => some .busFault
  | 5 => some .usageFault
  | 6 => some .svc
  | 7 => some .debugMonitor
  | 8 => some .pendSv
  | 9 => some .sysTick
  | 10 => some .allInterrupts
  | _ => none

/-- The priority descriptor: register and bit offset (R98); `none` for the kinds with no priority field (R157). -/
def priorityDescriptor : Kind → Option (Selector × Nat)
  | .reset => none
  | .nmi => none
  | .hardFault => none
  | .memFault => some (.syspri1, 5)
  | .busFault => some (.syspri1, 13)
  | .usageFault => some (.syspri1, 21)
  | .svc => some (.syspri2, 29)
  | .debugMonitor => some (.syspri3, 5)
  | .pendSv => some (.syspri3, 21)
  | .sysTick => some (.syspri3, 29)
  | .allInterrupts => none

/-- What a kind's enable and disable act on (R99). -/
inductive Control where
  | nothing
  | faultMask
  | shcBit (bit : Fin 32)
  | softwareInterrupt
  | interruptMask
  deriving DecidableEq, Repr

/-- The enable/disable descriptor (R99). -/
def enableDescriptor (cfg : Config) : Kind → Control
  | .reset => .nothing
  | .nmi => .nothing
  | .hardFault => .faultMask
  | .memFault => .shcBit cfg.shcMemBit
  | .busFault => .shcBit cfg.shcBusBit
  | .usageFault => .shcBit cfg.shcUsgBit
  | .svc => .softwareInterrupt
  | .debugMonitor => .nothing
  | .pendSv => .nothing
  | .sysTick => .nothing
  | .allInterrupts => .interruptMask

/-- `PrioInRange` (R102). -/
def prioInRange (priority : Word) : Bool := decide (priority.toNat ≤ 7)

/-- The inserted value `x = priority[2:0] = priority % 8` (R102): truncated, never saturated. -/
def prioField (priority : Word) : Word := priority &&& 7#32

/-- `0x7 << o` (R67). -/
def fieldMask (o : Nat) : Word := 7#32 <<< o

/-- set-bits (R66): `T | m`. -/
def setBits (t m : Word) : Word := t ||| m

/-- clear-bits (R66): `T & ~m`. -/
def clearBits (t m : Word) : Word := t &&& ~~~m

/-- insert-field (R66, R67): `(T & ~(0x7 << o)) | (x << o)`. -/
def insertField (t : Word) (o : Nat) (x : Word) : Word := (t &&& ~~~(fieldMask o)) ||| (x <<< o)

/-- The one-hot word of a bit position. -/
def bitWord (bit : Fin 32) : Word := 1#32 <<< bit.val

/-- `reload32 = (periodMs * TICKS_PER_MS - 1) mod 2^32` (R103). -/
def reload32 (cfg : Config) (periodMs : Word) : Word := periodMs * cfg.ticksPerMs - 1

/-- `trunc_TIMER_BITS(v)` (R8, R41). -/
def truncTimer (cfg : Config) (v : Word) : Word := BitVec.ofNat 32 (v.toNat % 2 ^ cfg.timerBits)

/-- `EN_BIT` of 42_timer_ops.md. -/
def enBit (cfg : Config) : Word := bitWord cfg.tctrlEnableBit

/-- `INT_BIT` of 42_timer_ops.md. -/
def intBit (cfg : Config) : Word := bitWord cfg.tctrlTickIntBit

/-- `CLK_BIT` of 42_timer_ops.md. -/
def clkBit (cfg : Config) : Word := bitWord cfg.tctrlClkSrcBit

/-- `FLAG_BIT` of 42_timer_ops.md. -/
def flagBit (cfg : Config) : Word := bitWord cfg.tctrlCountFlagBit

/-- The selector numbers of R70. -/
def selectorNumber : Selector → Nat
  | .en r => r.val
  | .dis r => 5 + r.val
  | .pri r => 10 + r.val
  | .shc => 45
  | .syspri1 => 46
  | .syspri2 => 47
  | .syspri3 => 48
  | .tctrl => 49
  | .treload => 50
  | .tcurrent => 51

theorem selectorNumber_lt (s : Selector) : selectorNumber s < 52 := by
  cases s <;> simp only [selectorNumber] <;> omega

/-- The physical address of a register under the configuration's ADDR_MAP (R71). No rule reads it: it relates the register bus
to a byte-addressed memory of a larger system. -/
def selectorAddress (cfg : Config) (s : Selector) : Nat := cfg.addrMap.get ⟨selectorNumber s, selectorNumber_lt s⟩

/-- The byte at `base + k` of a word, k = 0..3: bits `8k+7 .. 8k` (R64, little-endian). -/
def wordByte (v : Word) (k : Fin 4) : Byte := v.extractLsb' (8 * k.val) 8

/-- Every selector, in the order of R70. -/
def allSelectors : List Selector :=
  (List.finRange 5).map .en ++ (List.finRange 5).map .dis ++ (List.finRange 35).map .pri
    ++ [.shc, .syspri1, .syspri2, .syspri3, .tctrl, .treload, .tcurrent]

/-- The register and byte lane an address of the register surface names under ADDR_MAP (R64, R71). -/
def addressLane (cfg : Config) (address : Nat) : Option (Selector × Fin 4) :=
  match allSelectors.find? (fun s => selectorAddress cfg s ≤ address && address < selectorAddress cfg s + 4) with
  | some s => some (s, ⟨(address - selectorAddress cfg s) % 4, Nat.mod_lt _ (by decide)⟩)
  | none => none

end Sys2Proof.Machine
end

