-- ==== Sys2Proof/Machine/Flags.lean ====
section
/-! DEFINITION. What behaves like a flag (10_state.md rule R27): the result code of a command (R28, R201, R204) and COUNTFLAG as
TCTRL shows it (R40). The block has no condition codes. -/

namespace Sys2Proof.Machine

/-- The number of a result code (R201): three bits. -/
def ResultCode.number : ResultCode → BitVec 3
  | .ok => 0
  | .errId => 1
  | .prioRange => 2
  | .nopNoCallback => 3
  | .nopUnsupported => 4
  | .errOpcode => 5

/-- `RES_OK if priority <= 7 else RES_PRIO_RANGE` (R124, R155). -/
def prioResult (priority : Word) : ResultCode := if prioInRange priority then .ok else .prioRange

/-- `PRIO_POLICY = REJECT and priority > 7` (R124, R155): no access is made. -/
def prioRejected (cfg : Config) (priority : Word) : Bool := cfg.prioPolicy == .reject && !prioInRange priority

/-- A bit of the TCTRL word: `b` at its position. -/
def flagWord (b : Bool) (bit : Fin 32) : Word := if b then bitWord bit else 0

/-- The word a read of TCTRL presents (R40): mode bits and COUNTFLAG at their positions, 0 elsewhere. -/
def State.tctrlWord (s : State) : Word :=
  flagWord s.enable s.cfg.tctrlEnableBit ||| flagWord s.tickInt s.cfg.tctrlTickIntBit
    ||| flagWord s.clkSrc s.cfg.tctrlClkSrcBit ||| flagWord s.countFlag s.cfg.tctrlCountFlagBit

/-- The test of the latched `T` in the poll loop: `(T & FLAG_BIT) = 0` goes back to poll (R172). -/
def pollDone (t mask : Word) : Bool := t &&& mask != 0

/-- COUNTFLAG and TICK_PENDING rise when the NEW value of TCURRENT is 0 (R218): on the 1-to-0 transition only. -/
def State.tickExpires (s : State) : Bool := s.tcurrent == 1

end Sys2Proof.Machine
end

