-- ==== Sys2Proof/Machine/Ops.lean ====
section
/-! DEFINITION. The named operations over the state: the current bank's latches, the register space (20_memory.md R62, R63), the
micro-steps (10_state.md R25), acceptance of a command (R91), its end (R200, R213), and entry to the timer interrupt's handler
(R210), which is the one exception entry the block has. -/

namespace Sys2Proof.Machine

/-- The bank of the current context (R23). -/
def State.bank (s : State) : Bank :=
  match s.ctx with
  | .normal => s.bankN
  | .interrupt => s.bankI

/-- Replace the bank of the current context; the other bank is left alone (R23). -/
def State.setBank (b : Bank) (s : State) : State :=
  { s with
    bankN := (match s.ctx with | .normal => b | .interrupt => s.bankN)
    bankI := (match s.ctx with | .normal => s.bankI | .interrupt => b) }

/-- The latches of the command in progress. -/
def State.lat (s : State) : Latches := s.bank.cur

/-- Replace the latches of the command in progress. -/
def State.setLat (l : Latches) (s : State) : State := s.setBank { s.bank with cur := l }

/-- Record an event (R76). -/
def State.record (e : Event) (s : State) : State := { s with history := e :: s.history }

/-- `IEN[32r+31 : 32r]` (R31). -/
def State.ienWord (s : State) (r : Fin 5) : Word := s.ien.extractLsb' (32 * r.val) 32

/-- A word at the place of `EN(r)` in IEN. -/
def ienPlace (r : Fin 5) (v : Word) : BitVec 160 := v.zeroExtend 160 <<< (32 * r.val)

/-- The three significant bits of each priority lane (R33). -/
def significantLaneBits : Word := 0xE0E0E0E0

/-- A priority word as PRI_LOW_BITS lets it be stored or read (R35). -/
def lowLaneBits (cfg : Config) (v : Word) : Word :=
  match cfg.priLowBits with
  | .stored => v
  | .razWi => v &&& significantLaneBits

/-- The word `RegRead(s)` returns (R62). -/
def State.regValue (s : State) : Selector → Word
  | .en r => s.ienWord r
  | .dis r =>
    match s.cfg.disReadMode with
    | .zero => 0
    | .enableState => s.ienWord r
  | .pri r => lowLaneBits s.cfg (s.pri.get r)
  | .shc => s.shc
  | .syspri1 => s.syspri1
  | .syspri2 => s.syspri2
  | .syspri3 => s.syspri3
  | .tctrl => s.tctrlWord
  | .treload => s.treload
  | .tcurrent => s.tcurrent

/-- The side effect of `RegRead(s)`: a read of TCTRL clears COUNTFLAG, no other read has one (R40, R62, R68). -/
def State.regReadEffect (sel : Selector) (s : State) : State :=
  match sel with
  | .tctrl => { s with countFlag := false }
  | .en _ => s
  | .dis _ => s
  | .pri _ => s
  | .shc => s
  | .syspri1 => s
  | .syspri2 => s
  | .syspri3 => s
  | .treload => s
  | .tcurrent => s

/-- The effect of `RegWrite(s, v)` (R63). -/
def State.regWrite (sel : Selector) (v : Word) (s : State) : State :=
  match sel with
  | .en r => { s with ien := s.ien ||| ienPlace r v }
  | .dis r => { s with ien := s.ien &&& ~~~(ienPlace r v) }
  | .pri r => { s with pri := s.pri.set r.val (lowLaneBits s.cfg v) r.isLt }
  | .shc => { s with shc := v }
  | .syspri1 => { s with syspri1 := v }
  | .syspri2 => { s with syspri2 := v }
  | .syspri3 => { s with syspri3 := v }
  | .tctrl =>
    { s with
      enable := v.getLsbD s.cfg.tctrlEnableBit.val
      tickInt := v.getLsbD s.cfg.tctrlTickIntBit.val
      clkSrc := v.getLsbD s.cfg.tctrlClkSrcBit.val }
  | .treload => { s with treload := truncTimer s.cfg v }
  | .tcurrent => { s with tcurrent := 0, countFlag := false }

/-- The byte a byte-addressed view of the register surface shows (R64, R71); no rule of the block uses it. -/
def State.surfaceByte (s : State) (address : Nat) : Option Byte :=
  match addressLane s.cfg address with
  | some (sel, k) => some (wordByte (s.regValue sel) k)
  | none => none

/-- One atomic action of a command (R9, R25). `poll` is the read of the poll loop, which goes on to the next micro-step only when
the latched word has a bit of `mask` (R172). -/
inductive Micro where
  | read (sel : Selector)
  | poll (sel : Selector) (mask : Word)
  | write (sel : Selector) (v : Word)
  | loadCb
  | storeCb (f : Option Reference)
  | setIMask (b : Bool)
  | setFMask (b : Bool)
  | raiseSvc
  | callOut (g : Reference)
  | result (c : ResultCode)
  deriving DecidableEq, Repr

/-- `T <- RegRead(sel)` and the new USTEP (R22, R62). -/
def State.readIntoT (sel : Selector) (ustep : Nat) (s : State) : State :=
  ((s.regReadEffect sel).setLat { s.lat with t := s.regValue sel, ustep := ustep }).record
    (.read s.ctx sel (s.regValue sel))

/-- USTEP counts one more micro-step done (R24). -/
def State.advance (s : State) : State := s.setLat { s.lat with ustep := s.lat.ustep + 1 }

/-- The handler-return step, in the same atomic step as the result of the `Handler` that dispatch started (R213). -/
def State.handlerReturn (s : State) : State :=
  { s with handlerActive := false, ctx := .normal }.record .handlerReturn

/-- `result <- c` (R200): RES is written and the bank is freed. A command of a callback gives the bank back to the `Handler` that
waits below it (R23); in the interrupt context the end of the lowest command is the handler return (R213). -/
def State.finish (c : ResultCode) (s : State) : State :=
  let done := s.record (.result s.ctx s.lat.op c)
  match s.bank.saved with
  | l :: ls => done.setBank { cur := l, saved := ls, res := c }
  | [] =>
    let freed := done.setBank { cur := { s.lat with ustep := 0, calling := none }, saved := [], res := c }
    match s.ctx with
    | .normal => freed
    | .interrupt => freed.handlerReturn

/-- One micro-step (R25). -/
def State.perform (m : Micro) (s : State) : State :=
  match m with
  | .read sel => s.readIntoT sel (s.lat.ustep + 1)
  | .poll sel mask => s.readIntoT sel (if pollDone (s.regValue sel) mask then s.lat.ustep + 1 else s.lat.ustep)
  | .write sel v => ((s.regWrite sel v).advance).record (.write s.ctx sel v)
  | .loadCb => (s.setLat { s.lat with f := s.cb, ustep := s.lat.ustep + 1 }).record (.cbLoad s.ctx s.cb)
  | .storeCb f => ({ s with cb := f }.advance).record (.cbStore s.ctx f)
  | .setIMask b => ({ s with imask := b }.advance).record (.setIMask s.ctx b)
  | .setFMask b => ({ s with fmask := b }.advance).record (.setFMask s.ctx b)
  | .raiseSvc => s.advance.record (.svc s.ctx)
  | .callOut g => (s.setLat { s.lat with calling := some g }).record (.call g)
  | .result c => s.finish c

/-- The latches of a command that has just been accepted: OP, A, B from the word, USTEP 1 (R91). `T` and `f` stay as the bank
last held them, a callback's command as the waiting `Handler`'s: R22 says that `T` "holds no value" there, and no operation
reads either before it writes it. DESIGN CHOICE, log 31. -/
def Latches.load (w : CommandWord) (l : Latches) : Latches :=
  { l with op := w.op, a := w.a, b := w.b, ustep := 1, calling := none }

/-- A bank accepts a command (R91). Where its `Handler` waits in CallOut, the Handler's latches are saved first (R23). -/
def Bank.accept (w : CommandWord) (b : Bank) : Bank :=
  { b with
    cur := b.cur.load w
    saved := (match b.cur.calling with | some _ => b.cur :: b.saved | none => b.saved) }

/-- The current bank can accept a command: it is idle (R91), or its `Handler` waits in CallOut for a callback that may issue
commands (R23, R179). -/
def State.canAccept (s : State) : Bool := s.lat.ustep == 0 || s.lat.calling.isSome

/-- The current context's command word is accepted (R91): no register is touched. -/
def State.accept (w : CommandWord) (s : State) : State := s.setBank (s.bank.accept w)

/-- One step of a command whose word is `w` and whose micro-steps are `micros`: acceptance where the bank can accept (R91), else
the micro-step USTEP names (R24). -/
def State.command (w : CommandWord) (micros : List (Latches → Micro)) (s : State) : Host.Outcome State Fault Refusal :=
  if s.canAccept then .next (s.accept w)
  else
    match micros[s.lat.ustep - 1]? with
    | some m => .next (s.perform (m s.lat))
    | none => .fault .sequencerOverrun

/-- The latched command word (R21). -/
def State.latchedWord (s : State) : CommandWord := CommandWord.ofFields s.lat.op s.lat.a s.lat.b

/-- A reserved opcode: accepted, no access and no state change, `RES_ERR_OPCODE` (R104). -/
def State.reservedOpcode (s : State) : Host.Outcome State Fault Refusal :=
  s.command s.latchedWord [fun _ => .result .errOpcode]

/-- When the dispatch step is enabled (R210). -/
def State.dispatchEnabled (s : State) : Bool :=
  s.tickPending && !s.imask && !s.fmask && !s.handlerActive && s.ctx == .normal

/-- The command word of `Handler` (R210). -/
def handlerWord : CommandWord := 0x0A0000000000

/-- Entry to the handler of the timer interrupt (R210, R211): it saves nothing, and bank I accepts `Handler`. -/
def State.enterHandler (s : State) : State :=
  { s with
    tickPending := false
    handlerActive := true
    ctx := .interrupt
    bankI := s.bankI.accept handlerWord }.record .dispatch

/-- The dispatch step where it is enabled; nothing where it is not (R210, R214). -/
def State.dispatch (s : State) : State := if s.dispatchEnabled then s.enterHandler else s

/-- The effect of a tick of a timer that counts (R218). -/
def State.countDown (s : State) : State :=
  if s.tcurrent = 0 then { s with tcurrent := s.treload }
  else
    { s with
      tcurrent := s.tcurrent - 1
      countFlag := s.countFlag || s.tickExpires
      tickPending := s.tickPending || (s.tickExpires && s.tickInt) }

/-- The tick of the TIMER agent where TCTRL.ENABLE = 1; nothing where it is 0 (R218). -/
def State.tick (s : State) : State := if s.enable then s.countDown.record .tick else s

/-- The callback returns (R179): CallOut ends, and with it the micro-step of `Handler`. Nothing where no call-out waits. -/
def State.callReturn (s : State) : State :=
  match s.lat.calling with
  | some g => (s.setLat { s.lat with calling := none, ustep := s.lat.ustep + 1 }).record (.ret g)
  | none => s

/-- The reset event (R240): every piece of state at its value of R52. The configuration, the inputs still to come and the
history, which are not the block's, stay; what R52 leaves unspecified is drawn anew. -/
def State.resetEvent (s : State) : State :=
  { State.afterReset s.cfg s.draws with inputs := s.inputs, history := s.history }

end Sys2Proof.Machine
end

