-- ==== Sys2Proof/Machine/ExceptionOps.lean ====
section
/-! DEFINITION. The system-exception operations (41_exception_ops.md): the micro-steps of each, and its meaning. -/

namespace Sys2Proof.Machine

/-- The micro-steps of `EnableException` (R140), arm by arm through the descriptor of R99. -/
def microsEnableException (cfg : Config) (kind : Byte) : List (Latches → Micro) :=
  match kindOf kind with
  | none => [fun _ => .result .errId]
  | some k =>
    match enableDescriptor cfg k with
    | .nothing => [fun _ => .result .nopUnsupported]
    | .faultMask => [fun _ => .setFMask false, fun _ => .result .ok]
    | .shcBit bit =>
      [fun _ => .read .shc, fun l => .write .shc (setBits l.t (bitWord bit)), fun _ => .result .ok]
    | .softwareInterrupt => [fun _ => .raiseSvc, fun _ => .result .ok]
    | .interruptMask => [fun _ => .setIMask false, fun _ => .result .ok]

/-- `EnableException(kind)` (R140). -/
def execEnableException (kind : Byte) (s : State) : Host.Outcome State Fault Refusal :=
  s.command (encode (.enableException kind)) (microsEnableException s.cfg kind)

/-- The micro-steps of `DisableException` (R141); the arm of `SVC` does nothing (R150). -/
def microsDisableException (cfg : Config) (kind : Byte) : List (Latches → Micro) :=
  match kindOf kind with
  | none => [fun _ => .result .errId]
  | some k =>
    match enableDescriptor cfg k with
    | .nothing => [fun _ => .result .nopUnsupported]
    | .faultMask => [fun _ => .setFMask true, fun _ => .result .ok]
    | .shcBit bit =>
      [fun _ => .read .shc, fun l => .write .shc (clearBits l.t (bitWord bit)), fun _ => .result .ok]
    | .softwareInterrupt => [fun _ => .result .nopUnsupported]
    | .interruptMask => [fun _ => .setIMask true, fun _ => .result .ok]

/-- `DisableException(kind)` (R141). -/
def execDisableException (kind : Byte) (s : State) : Host.Outcome State Fault Refusal :=
  s.command (encode (.disableException kind)) (microsDisableException s.cfg kind)

/-- The micro-steps of `SetPriorityException` (R155): the register read is the register written (R159). -/
def microsSetPriorityException (cfg : Config) (kind : Byte) (priority : Word) : List (Latches → Micro) :=
  match kindOf kind with
  | none => [fun _ => .result .errId]
  | some k =>
    match priorityDescriptor k with
    | none => [fun _ => .result .nopUnsupported]
    | some (sel, o) =>
      if prioRejected cfg priority then [fun _ => .result .prioRange]
      else
        [fun _ => .read sel,
         fun l => .write sel (insertField l.t o (prioField priority)),
         fun _ => .result (prioResult priority)]

/-- `SetPriorityException(kind, priority)` (R155). -/
def execSetPriorityException (kind : Byte) (priority : Word) (s : State) : Host.Outcome State Fault Refusal :=
  s.command (encode (.setPriorityException kind priority)) (microsSetPriorityException s.cfg kind priority)

end Sys2Proof.Machine
end

