-- ==== Sys2Proof/Machine/IrqOps.lean ====
section
/-! DEFINITION. The interrupt-request operations (40_irq_ops.md): the micro-steps of each, and its meaning. -/

namespace Sys2Proof.Machine

/-- The micro-steps of `EnableIRQ` (R120). -/
def microsEnableIRQ (cfg : Config) (id : Byte) : List (Latches → Micro) :=
  match irqInRange cfg id with
  | none => [fun _ => .result .errId]
  | some i =>
    [fun _ => .read (.en (enableReg i)),
     fun l => .write (.en (enableReg i)) (setBits l.t (enableMask i)),
     fun _ => .result .ok]

/-- `EnableIRQ(id)` (R120). -/
def execEnableIRQ (id : Byte) (s : State) : Host.Outcome State Fault Refusal :=
  s.command (encode (.enableIRQ id)) (microsEnableIRQ s.cfg id)

/-- The micro-steps of `DisableIRQ` (R122): bit `id % 32` of the DISABLE register is set by read-modify-write. -/
def microsDisableIRQ (cfg : Config) (id : Byte) : List (Latches → Micro) :=
  match irqInRange cfg id with
  | none => [fun _ => .result .errId]
  | some i =>
    [fun _ => .read (.dis (enableReg i)),
     fun l => .write (.dis (enableReg i)) (setBits l.t (enableMask i)),
     fun _ => .result .ok]

/-- `DisableIRQ(id)` (R122). -/
def execDisableIRQ (id : Byte) (s : State) : Host.Outcome State Fault Refusal :=
  s.command (encode (.disableIRQ id)) (microsDisableIRQ s.cfg id)

/-- The micro-steps of `SetPriorityIRQ` (R124): the identifier check comes first (R204). -/
def microsSetPriorityIRQ (cfg : Config) (id : Byte) (priority : Word) : List (Latches → Micro) :=
  match irqInRange cfg id with
  | none => [fun _ => .result .errId]
  | some i =>
    if prioRejected cfg priority then [fun _ => .result .prioRange]
    else
      [fun _ => .read (.pri (priorityReg i)),
       fun l => .write (.pri (priorityReg i)) (insertField l.t (priorityOffset i) (prioField priority)),
       fun _ => .result (prioResult priority)]

/-- `SetPriorityIRQ(id, priority)` (R124). -/
def execSetPriorityIRQ (id : Byte) (priority : Word) (s : State) : Host.Outcome State Fault Refusal :=
  s.command (encode (.setPriorityIRQ id priority)) (microsSetPriorityIRQ s.cfg id priority)

end Sys2Proof.Machine
end

