-- ==== Sys2Proof/Machine/TimerOps.lean ====
section
/-! DEFINITION. The timer-driver operations (42_timer_ops.md): the micro-steps of each, and its meaning. -/

namespace Sys2Proof.Machine

/-- The micro-steps of `Init` (R170). -/
def microsInit (cfg : Config) (periodMs : Word) : List (Latches → Micro) :=
  [fun _ => .write .tctrl 0,
   fun _ => .write .treload (reload32 cfg periodMs),
   fun _ => .write .tcurrent 0,
   fun _ => .read .tctrl,
   fun l => .write .tctrl (l.t ||| enBit cfg ||| intBit cfg ||| clkBit cfg),
   fun _ => .result .ok]

/-- `Init(periodMs)` (R170). -/
def execInit (periodMs : Word) (s : State) : Host.Outcome State Fault Refusal :=
  s.command (encode (.init periodMs)) (microsInit s.cfg periodMs)

/-- The micro-steps of `StartBusyWait` (R172); the sixth is repeated until it sees the flag. -/
def microsStartBusyWait (cfg : Config) (periodMs : Word) : List (Latches → Micro) :=
  [fun _ => .write .tctrl 0,
   fun _ => .write .treload (reload32 cfg periodMs),
   fun _ => .write .tcurrent 0,
   fun _ => .read .tctrl,
   fun l => .write .tctrl (l.t ||| enBit cfg ||| clkBit cfg),
   fun _ => .poll .tctrl (flagBit cfg),
   fun _ => .write .tctrl 0,
   fun _ => .write .treload 0,
   fun _ => .write .tcurrent 0,
   fun _ => .result .ok]

/-- `StartBusyWait(periodMs)` (R172). -/
def execStartBusyWait (periodMs : Word) (s : State) : Host.Outcome State Fault Refusal :=
  s.command (encode (.startBusyWait periodMs)) (microsStartBusyWait s.cfg periodMs)

/-- The micro-steps of `SetCallBack` (R176): `none` if the operand word is 0, else `some` of it (R92). -/
def microsSetCallBack (fn : Option Reference) : List (Latches → Micro) :=
  [fun _ => .storeCb (callbackOfWord (wordOfCallback fn)), fun _ => .result .ok]

/-- `SetCallBack(fn)` (R176). -/
def execSetCallBack (fn : Option Reference) (s : State) : Host.Outcome State Fault Refusal :=
  s.command (encode (.setCallBack fn)) (microsSetCallBack fn)

/-- The second micro-step of `Handler` (R178): the value tested is the value loaded, and the value called. -/
def handlerCall (f : Option Reference) : Micro :=
  match f with
  | none => .result .nopNoCallback
  | some g => .callOut g

/-- The micro-steps of `Handler` (R178). -/
def microsHandler : List (Latches → Micro) :=
  [fun _ => .loadCb, fun l => handlerCall l.f, fun _ => .result .ok]

/-- `Handler()` (R178). -/
def execHandler (s : State) : Host.Outcome State Fault Refusal :=
  s.command (encode .handler) microsHandler

/-- The micro-steps of `Start` (R181). -/
def microsStart (cfg : Config) : List (Latches → Micro) :=
  [fun _ => .read .tctrl, fun l => .write .tctrl (setBits l.t (enBit cfg)), fun _ => .result .ok]

/-- `Start()` (R181). -/
def execStart (s : State) : Host.Outcome State Fault Refusal :=
  s.command (encode .start) (microsStart s.cfg)

/-- The micro-steps of `Stop` (R182). -/
def microsStop (cfg : Config) : List (Latches → Micro) :=
  [fun _ => .read .tctrl, fun l => .write .tctrl (clearBits l.t (enBit cfg)), fun _ => .result .ok]

/-- `Stop()` (R182). -/
def execStop (s : State) : Host.Outcome State Fault Refusal :=
  s.command (encode .stop) (microsStop s.cfg)

/-- The micro-steps of `DeInit` (R183). -/
def microsDeInit : List (Latches → Micro) :=
  [fun _ => .write .tctrl 0,
   fun _ => .write .treload 0,
   fun _ => .write .tcurrent 0,
   fun _ => .storeCb none,
   fun _ => .result .ok]

/-- `DeInit()` (R183). -/
def execDeInit (s : State) : Host.Outcome State Fault Refusal :=
  s.command (encode .deInit) microsDeInit

end Sys2Proof.Machine
end

