-- ==== Sys2Proof/Machine/Dispatch.lean ====
section
/-! DEFINITION. One step of an instruction: its acceptance where the current bank can accept a command (R91), else the
micro-step USTEP names (R24, R25). -/

namespace Sys2Proof.Machine

def exec (i : Instr) (s : State) : Host.Outcome State Fault Refusal :=
  match i with
  | .enableIRQ id => Sys2Proof.Machine.execEnableIRQ id s
  | .disableIRQ id => Sys2Proof.Machine.execDisableIRQ id s
  | .setPriorityIRQ id priority => Sys2Proof.Machine.execSetPriorityIRQ id priority s
  | .enableException kind => Sys2Proof.Machine.execEnableException kind s
  | .disableException kind => Sys2Proof.Machine.execDisableException kind s
  | .setPriorityException kind priority => Sys2Proof.Machine.execSetPriorityException kind priority s
  | .init periodMs => Sys2Proof.Machine.execInit periodMs s
  | .startBusyWait periodMs => Sys2Proof.Machine.execStartBusyWait periodMs s
  | .setCallBack fn => Sys2Proof.Machine.execSetCallBack fn s
  | .handler => Sys2Proof.Machine.execHandler s
  | .start => Sys2Proof.Machine.execStart s
  | .stop => Sys2Proof.Machine.execStop s
  | .deInit => Sys2Proof.Machine.execDeInit s

end Sys2Proof.Machine
end

