-- ==== Sys2Proof/Machine/Schedule.lean ====
section
/-! DEFINITION. What each input does (00_scope.md R11, 10_state.md R25): the executing context goes on, or another agent takes
its step. -/

namespace Sys2Proof.Machine

/-- The command in progress, as the decoder reads the latched word (R21). -/
def State.fetch (s : State) : Except DecodeError Instr := decode s.latchedWord

/-- The executing context goes on: an idle bank waits for a command (R24, R240), a `Handler` in CallOut waits for the return
(R179), and a command in progress makes its next micro-step. -/
def State.runContext (s : State) : Host.Outcome State Fault Refusal :=
  if s.canAccept then .next s
  else
    match s.fetch with
    | .ok i => exec i s
    | .error _ => s.reservedOpcode

/-- The state with the rest of its inputs. -/
def State.withInputs (inputs : List Input) (s : State) : State := { s with inputs := inputs }

/-- One input, with the inputs after it. `present` and `callReturn` come from the code of the executing context, so they wait,
and the command in progress goes on, until the bank can accept (R91, R179). -/
def State.serve (input : Input) (rest : List Input) (s : State) : Host.Outcome State Fault Refusal :=
  match input with
  | .micro => (s.withInputs rest).runContext
  | .tick => .next (s.withInputs rest).tick
  | .dispatch => .next (s.withInputs rest).dispatch
  | .present w => if s.canAccept then .next ((s.withInputs rest).accept w) else s.runContext
  | .callReturn => if s.canAccept then .next (s.withInputs rest).callReturn else s.runContext
  | .reset => .next (s.withInputs rest).resetEvent
  | .unprivileged _ => .refused .unprivilegedIssuer
  | .otherMaster _ _ => .refused .otherBusMaster
  | .svcHandler _ => .refused .svcHandlerCommand

/-- The current context's command is `w`, accepted (R91), and its first micro-step comes next. -/
def State.place (w : CommandWord) (s : State) : State := (s.accept w).withInputs (.micro :: s.inputs)

end Sys2Proof.Machine
end

