-- ==== Sys2Proof/Machine/Step.lean ====
section
/-! DEFINITION. One step of the machine: what the first input says, or, with no input left, the executing context goes on. -/

namespace Sys2Proof.Machine

/-- One step. -/
def step (s : State) : Host.Outcome State Fault Refusal :=
  match s.inputs with
  | [] => s.runContext
  | input :: rest => s.serve input rest

/-- The state in which the command word `w` (numbered as spec/opcode_table.json numbers it) has been accepted by the current
context, so that the very next step makes the first micro-step of exactly that instruction (log 4). -/
def State.withFetchWord (s : State) (nbits w : Nat) : State := s.place (BitVec.ofNat 48 (w % 2 ^ nbits))

end Sys2Proof.Machine
end

