-- ==== Sys2Proof/Safety.lean ====
section
/-! DEFINITION. The terms claims use: the micro-steps of any instruction, how a command ends, what stays the same, and the
invariant of the machine. -/

namespace Sys2Proof.Machine

/-- The micro-steps of an instruction, in order (the operation rules of 40_irq_ops.md, 41_exception_ops.md, 42_timer_ops.md). -/
def microsOf (cfg : Config) : Instr → List (Latches → Micro)
  | .enableIRQ id => microsEnableIRQ cfg id
  | .disableIRQ id => microsDisableIRQ cfg id
  | .setPriorityIRQ id priority => microsSetPriorityIRQ cfg id priority
  | .enableException kind => microsEnableException cfg kind
  | .disableException kind => microsDisableException cfg kind
  | .setPriorityException kind priority => microsSetPriorityException cfg kind priority
  | .init periodMs => microsInit cfg periodMs
  | .startBusyWait periodMs => microsStartBusyWait cfg periodMs
  | .setCallBack fn => microsSetCallBack fn
  | .handler => microsHandler
  | .start => microsStart cfg
  | .stop => microsStop cfg
  | .deInit => microsDeInit

/-- The micro-steps of a command word: those of its operation, or the one of a reserved opcode (R104). -/
def microsOfWord (cfg : Config) (w : CommandWord) : List (Latches → Micro) :=
  match decode w with
  | .ok i => microsOf cfg i
  | .error _ => [fun _ => .result .errOpcode]

/-- The bank of a context. -/
def State.bankOf (c : Ctx) (s : State) : Bank :=
  match c with
  | .normal => s.bankN
  | .interrupt => s.bankI

/-- The other context. -/
def Ctx.other : Ctx → Ctx
  | .normal => .interrupt
  | .interrupt => .normal

/-- The command in progress has done `k - 1` of its micro-steps and is not in a call-out (R24). -/
abbrev State.AtStep (k : Nat) (s : State) : Prop := s.lat.ustep = k ∧ s.lat.calling = none

/-! What stays the same. -/

/-- The priority registers of the interrupt lines. -/
abbrev SamePriorities (s t : State) : Prop := t.pri = s.pri

/-- SHC and the system priority registers. -/
abbrev SameSystemRegisters (s t : State) : Prop :=
  t.shc = s.shc ∧ t.syspri1 = s.syspri1 ∧ t.syspri2 = s.syspri2 ∧ t.syspri3 = s.syspri3

/-- Every register of the interrupt controller: selectors 0 to 48 (R221). -/
abbrev SameIrqController (s t : State) : Prop := t.ien = s.ien ∧ SamePriorities s t ∧ SameSystemRegisters s t

/-- The timer's registers: selectors 49 to 51 (R221). -/
abbrev SameTimer (s t : State) : Prop :=
  t.enable = s.enable ∧ t.tickInt = s.tickInt ∧ t.clkSrc = s.clkSrc ∧ t.countFlag = s.countFlag
    ∧ t.treload = s.treload ∧ t.tcurrent = s.tcurrent

/-- The processor-state bits. -/
abbrev SameMasks (s t : State) : Prop := t.imask = s.imask ∧ t.fmask = s.fmask

/-- TICK_PENDING, and the model's own configuration, inputs and draws. -/
abbrev SameOutside (s t : State) : Prop :=
  t.tickPending = s.tickPending ∧ t.cfg = s.cfg ∧ t.inputs = s.inputs ∧ t.draws = s.draws

/-- CTX, HANDLER_ACTIVE and the bank of the context that does not run. -/
abbrev SameContext (s t : State) : Prop :=
  t.ctx = s.ctx ∧ t.handlerActive = s.handlerActive ∧ t.bankOf s.ctx.other = s.bankOf s.ctx.other

/-- The command in progress in `s` is in progress in `t` with the same word, the same `Handler`s waiting below it, and RES and the
context as they were (R21, R23, R26, R28). -/
abbrev SameCommand (s t : State) : Prop :=
  t.lat.op = s.lat.op ∧ t.lat.a = s.lat.a ∧ t.lat.b = s.lat.b ∧ t.bank.saved = s.bank.saved ∧ t.bank.res = s.bank.res
    ∧ t.ctx = s.ctx ∧ t.handlerActive = s.handlerActive

/-- T is as it was, or is the word the step has just read (R22). -/
abbrev TKeptOrRead (s t : State) : Prop :=
  t.lat.t = s.lat.t ∨ ∃ sel, t.lat.t = s.regValue sel ∧ t.history = .read s.ctx sel (s.regValue sel) :: s.history

/-- The step from `s` to `t` does not end the command in progress in `s`: no result of it is recorded (R200). -/
abbrev NotEnded (s t : State) : Prop :=
  ∀ (code : ResultCode) (tail : List Event), t.history ≠ tail ++ .result s.ctx s.lat.op code :: s.history

/-- The events the end of a command records (R200, R213). -/
def endEvents (s : State) (code : ResultCode) : List Event :=
  match s.bank.saved, s.ctx with
  | [], .interrupt => [.handlerReturn, .result s.ctx s.lat.op code]
  | _, _ => [.result s.ctx s.lat.op code]

/-- The command in progress in `s` has ended in `t` with result `code` (R200): RES of the issuing bank holds the code; the bank
is idle, or is given back to the `Handler` that waits below (R23); the lowest command of the interrupt context ends with
the handler return (R213); the other bank is as it was. -/
def CommandEnded (s : State) (code : ResultCode) (t : State) : Prop :=
  (t.bankOf s.ctx).res = code
    ∧ t.bankOf s.ctx.other = s.bankOf s.ctx.other
    ∧ match s.bank.saved with
      | [] =>
        (t.bankOf s.ctx).cur.ustep = 0 ∧ (t.bankOf s.ctx).cur.calling = none ∧ (t.bankOf s.ctx).saved = []
          ∧ t.ctx = .normal
          ∧ (s.ctx = .normal → t.handlerActive = s.handlerActive)
          ∧ (s.ctx = .interrupt → t.handlerActive = false)
      | l :: ls =>
        (t.bankOf s.ctx).cur = l ∧ (t.bankOf s.ctx).saved = ls ∧ t.ctx = s.ctx ∧ t.handlerActive = s.handlerActive

/-- `t` differs from `s` only in that the command in progress has ended with `code`: no register access and no other state
change was made. -/
def OnlyEnded (s : State) (code : ResultCode) (t : State) : Prop :=
  SameIrqController s t ∧ SameTimer s t ∧ t.cb = s.cb ∧ SameMasks s t ∧ SameOutside s t
    ∧ CommandEnded s code t ∧ t.history = endEvents s code ++ s.history

/-- The operations of 70_reset_and_hazards.md R250: `ReadModifyWrite cfg i k sel f` says that the `k`-th micro-step of `i` writes
`f(T)` to `sel`, where `T` is what an earlier micro-step read there. -/
inductive ReadModifyWrite (cfg : Config) : Instr → Nat → Selector → (Word → Word) → Prop where
  | enableIRQ (id : Byte) (q : Fin 5) : id.toNat < cfg.nIrq.val → q.val = id.toNat / 32 →
      ReadModifyWrite cfg (.enableIRQ id) 2 (.en q) (fun t => t ||| 1#32 <<< (id.toNat % 32))
  | disableIRQ (id : Byte) (q : Fin 5) : id.toNat < cfg.nIrq.val → q.val = id.toNat / 32 →
      ReadModifyWrite cfg (.disableIRQ id) 2 (.dis q) (fun t => t ||| 1#32 <<< (id.toNat % 32))
  | setPriorityIRQ (id : Byte) (priority : Word) (r : Fin 35) : id.toNat < cfg.nIrq.val → r.val = id.toNat / 4 →
      ¬ (cfg.prioPolicy = .reject ∧ 7 < priority.toNat) →
      ReadModifyWrite cfg (.setPriorityIRQ id priority) 2 (.pri r)
        (fun t => insertField t (id.toNat % 4 * 8 + 5) (priority &&& 7))
  | enableFault (kind : Byte) (bit : Fin 32) :
      (kind = 3 ∧ bit = cfg.shcMemBit) ∨ (kind = 4 ∧ bit = cfg.shcBusBit) ∨ (kind = 5 ∧ bit = cfg.shcUsgBit) →
      ReadModifyWrite cfg (.enableException kind) 2 .shc (fun t => t ||| 1#32 <<< bit.val)
  | disableFault (kind : Byte) (bit : Fin 32) :
      (kind = 3 ∧ bit = cfg.shcMemBit) ∨ (kind = 4 ∧ bit = cfg.shcBusBit) ∨ (kind = 5 ∧ bit = cfg.shcUsgBit) →
      ReadModifyWrite cfg (.disableException kind) 2 .shc (fun t => t &&& ~~~(1#32 <<< bit.val))
  | setPriorityException (kind : Byte) (priority : Word) (sel : Selector) (o : Nat) :
      (kind.toNat, sel, o) ∈ [(3, Selector.syspri1, 5), (4, .syspri1, 13), (5, .syspri1, 21), (6, .syspri2, 29),
        (7, .syspri3, 5), (8, .syspri3, 21), (9, .syspri3, 29)] →
      ¬ (cfg.prioPolicy = .reject ∧ 7 < priority.toNat) →
      ReadModifyWrite cfg (.setPriorityException kind priority) 2 sel (fun t => insertField t o (priority &&& 7))
  | init (periodMs : Word) :
      ReadModifyWrite cfg (.init periodMs) 5 .tctrl
        (fun t => t ||| 1#32 <<< cfg.tctrlEnableBit.val ||| 1#32 <<< cfg.tctrlTickIntBit.val
          ||| 1#32 <<< cfg.tctrlClkSrcBit.val)
  | startBusyWait (periodMs : Word) :
      ReadModifyWrite cfg (.startBusyWait periodMs) 5 .tctrl
        (fun t => t ||| 1#32 <<< cfg.tctrlEnableBit.val ||| 1#32 <<< cfg.tctrlClkSrcBit.val)
  | start : ReadModifyWrite cfg .start 2 .tctrl (fun t => t ||| 1#32 <<< cfg.tctrlEnableBit.val)
  | stop : ReadModifyWrite cfg .stop 2 .tctrl (fun t => t &&& ~~~(1#32 <<< cfg.tctrlEnableBit.val))

/-! The invariant. -/

/-- The word a set of latches holds (R21). -/
def Latches.word (l : Latches) : CommandWord := CommandWord.ofFields l.op l.a l.b

/-- An idle bank's latches (R24). -/
abbrev Latches.Idle (l : Latches) : Prop := l.ustep = 0 ∧ l.calling = none

/-- USTEP names a micro-step of the command in progress (R24). -/
abbrev Latches.Running (cfg : Config) (l : Latches) : Prop :=
  l.calling = none ∧ 1 ≤ l.ustep ∧ l.ustep ≤ (microsOfWord cfg l.word).length

/-- A `Handler` that waits in CallOut for the callback it loaded (R178, R179). -/
abbrev Latches.InCall (l : Latches) : Prop :=
  l.op = 0x0A ∧ l.ustep = 2 ∧ l.f.isSome = true ∧ l.calling = l.f

/-- A bank is idle, or runs a command or waits in a call-out, with only waiting `Handler`s below (R23). -/
abbrev Bank.Sound (cfg : Config) (b : Bank) : Prop :=
  (b.cur.Idle ∧ b.saved = []) ∨ ((b.cur.Running cfg ∨ b.cur.InCall) ∧ ∀ l ∈ b.saved, l.InCall)

/-- The lowest command of a bank. -/
def Bank.base (b : Bank) : Latches := b.saved.getLastD b.cur

/-- The interrupt context is entered by dispatch and left by the return of its `Handler` only (R26, R48, R217): in the normal
context bank I is idle and HANDLER_ACTIVE is 0, in the interrupt context HANDLER_ACTIVE is 1 and `Handler` is bank I's
lowest command. -/
abbrev State.ContextSound (s : State) : Prop :=
  (s.ctx = .normal ∧ s.handlerActive = false ∧ s.bankI.cur.Idle)
    ∨ (s.ctx = .interrupt ∧ s.handlerActive = true ∧ ¬ s.bankI.cur.Idle ∧ s.bankI.base.op = 0x0A)

/-- The sequencers are where some run of commands can bring them. -/
abbrev State.SequencerSound (s : State) : Prop :=
  s.bankN.Sound s.cfg ∧ s.bankI.Sound s.cfg ∧ s.ContextSound

/-- Register widths: TRELOAD and TCURRENT hold TIMER_BITS bits (R41, R42), a priority word holds what PRI_LOW_BITS lets it hold (R35). -/
abbrev State.WidthsSound (s : State) : Prop :=
  s.treload.toNat < 2 ^ s.cfg.timerBits ∧ s.tcurrent.toNat < 2 ^ s.cfg.timerBits
    ∧ ∀ r : Fin 35, lowLaneBits s.cfg (s.pri.get r) = s.pri.get r

/-- The callback slot and every copy of it in a latch are `none` or a non-zero reference (R47). -/
abbrev State.CallbacksSound (s : State) : Prop :=
  callbackWellFormed s.cb = true
    ∧ (∀ l ∈ s.bankN.cur :: s.bankN.saved, callbackWellFormed l.f = true)
    ∧ (∀ l ∈ s.bankI.cur :: s.bankI.saved, callbackWellFormed l.f = true)

/-- The invariant of the machine. -/
abbrev State.Inv (s : State) : Prop :=
  s.cfg.wellFormed = true ∧ s.SequencerSound ∧ s.WidthsSound ∧ s.CallbacksSound

/-! The premises of 92_eei_decisions.md that are about what happens outside the block. -/

/-- PRIVILEGED (R216), NO_OTHER_MASTER (R80) and NO_SVC_HANDLER_CMDS (R226): no input is one the spec has a model refuse. -/
def InputAdmitted : Input → Bool
  | .micro => true
  | .tick => true
  | .dispatch => true
  | .present _ => true
  | .callReturn => true
  | .reset => true
  | .unprivileged _ => false
  | .otherMaster _ _ => false
  | .svcHandler _ => false

/-- `n` ticks with nothing between them. -/
def State.ticks : Nat → State → State
  | 0, s => s
  | n + 1, s => State.ticks n s.tick

/-- A step of a schedule in which only the TIMER agent and the executing context step. -/
def TickOrMicro : Input → Bool
  | .micro => true
  | .tick => true
  | .dispatch => false
  | .present _ => false
  | .callReturn => false
  | .reset => false
  | .unprivileged _ => false
  | .otherMaster _ _ => false
  | .svcHandler _ => false

end Sys2Proof.Machine
end

