-- ==== Sys2Proof/Certificates/Slice0/Obligations.lean ====
section
/-! DEFINITION. The statements for the provers, in the order of the spec's files. Each docstring names the rule it formalises.
A command's run is written out as the chain of its micro-steps, `exec i s = .next s1`, `exec i s1 = .next s2` and so on, from
`AtStep 1` (just accepted) to its result, with nothing stepping in between; what may step in between is stated apart. -/

open Sys2Proof Sys2Proof.Machine

/-! ## Encoding (30_encoding.md) -/

/-- R90, R93, R95: no bit of an operand is lost by the encoder or the decoder. The word and its opcodes are the spec's own
decision (D2, D3). -/
def Obligations.DecodeOfEncodeIsTheInstruction : Prop :=
  ∀ i : Instr, i.wellFormed = true → decode (encode i) = .ok i

/-- R92, R93, R95: the decoded operation has the word's opcode, its operands are the fields R93 lists for it, and the fields
it ignores are zero when it is encoded again. The word and its opcodes are the spec's own decision (D2, D3, D33). -/
def Obligations.DecodeReadsExactlyTheListedFields : Prop :=
  ∀ (w : CommandWord) (i : Instr), decode w = .ok i →
    i.wellFormed = true
      ∧ i.opcode = w.extractLsb' 40 8
      ∧ i.fieldA = (if (w.extractLsb' 40 8).toNat ≤ 6 then w.extractLsb' 32 8 else 0)
      ∧ i.fieldB = (if (w.extractLsb' 40 8).toNat ∈ [3, 6, 7, 8, 9] then w.extractLsb' 0 32 else 0)

/-- R95: words that differ only in fields R93 does not list for their operation decode to the same. The spec's own decision
(D33). -/
def Obligations.IgnoredFieldsDoNotMatter : Prop :=
  ∀ w v : CommandWord,
    w.extractLsb' 40 8 = v.extractLsb' 40 8 →
    ((w.extractLsb' 40 8).toNat ∈ [1, 2, 3, 4, 5, 6] → w.extractLsb' 32 8 = v.extractLsb' 32 8) →
    ((w.extractLsb' 40 8).toNat ∈ [3, 6, 7, 8, 9] → w.extractLsb' 0 32 = v.extractLsb' 0 32) →
    decode w = decode v

/-- R109: the examples of the textual form, with their words and what the decoder reads from them. The concrete syntax is the
spec's own decision (D2; log 26). -/
def Obligations.TextExamplesAssembleAndDecode : Prop :=
  (assemble "EnableIRQ(17)" = some 0x011100000000 ∧ decode 0x011100000000 = .ok (.enableIRQ 17))
    ∧ (assemble "DisableIRQ(138)" = some 0x028A00000000 ∧ decode 0x028A00000000 = .ok (.disableIRQ 138))
    ∧ (assemble "SetPriorityIRQ(1, 5)" = some 0x030100000005 ∧ decode 0x030100000005 = .ok (.setPriorityIRQ 1 5))
    ∧ (assemble "EnableException(MEM_FAULT)" = some 0x040300000000
        ∧ decode 0x040300000000 = .ok (.enableException 3))
    ∧ (assemble "DisableException(ALL_INTERRUPTS)" = some 0x050A00000000
        ∧ decode 0x050A00000000 = .ok (.disableException 10))
    ∧ (assemble "SetPriorityException(SYSTICK, 2)" = some 0x060900000002
        ∧ decode 0x060900000002 = .ok (.setPriorityException 9 2))
    ∧ (assemble "Init(10)" = some 0x07000000000A ∧ decode 0x07000000000A = .ok (.init 10))
    ∧ (assemble "StartBusyWait(10)" = some 0x08000000000A ∧ decode 0x08000000000A = .ok (.startBusyWait 10))
    ∧ (assemble "SetCallBack(0x20000101)" = some 0x090020000101
        ∧ decode 0x090020000101 = .ok (.setCallBack (some 0x20000101)))
    ∧ (assemble "Handler()" = some 0x0A0000000000 ∧ decode 0x0A0000000000 = .ok .handler)
    ∧ (assemble "Start()" = some 0x0B0000000000 ∧ decode 0x0B0000000000 = .ok .start)
    ∧ (assemble "Stop()" = some 0x0C0000000000 ∧ decode 0x0C0000000000 = .ok .stop)
    ∧ (assemble "DeInit()" = some 0x0D0000000000 ∧ decode 0x0D0000000000 = .ok .deInit)

/-- R96, R97, R101: an identifier is in range exactly when it is below N_IRQ, and then selects enable register `id / 32`, bit
`id % 32`, and priority register `id / 4`, offset `(id % 4) * 8 + 5`. The selector numbers are the spec's own decision (D6). -/
def Obligations.IdentifierEncoder : Prop :=
  ∀ (cfg : Config) (id : Byte),
    (cfg.nIrq.val ≤ id.toNat → irqInRange cfg id = none)
      ∧ (id.toNat < cfg.nIrq.val →
          ∃ i, irqInRange cfg id = some i
            ∧ (enableReg i).val = id.toNat / 32 ∧ enableBit i = id.toNat % 32
            ∧ enableMask i = 1#32 <<< (id.toNat % 32)
            ∧ (priorityReg i).val = id.toNat / 4 ∧ priorityOffset i = id.toNat % 4 * 8 + 5
            ∧ selectorNumber (.en (enableReg i)) = id.toNat / 32
            ∧ selectorNumber (.dis (enableReg i)) = 5 + id.toNat / 32
            ∧ selectorNumber (.pri (priorityReg i)) = 10 + id.toNat / 4)

/-- R67, R102: for the four offsets, inserting `priority[2:0]` sets the three bits of the field and no other bit. -/
def Obligations.InsertFieldTouchesOnlyItsThreeBits : Prop :=
  ∀ (t priority : Word) (o j : Nat), o ∈ [5, 13, 21, 29] →
    (insertField t o (prioField priority)).getLsbD j
      = if o ≤ j ∧ j < o + 3 then priority.getLsbD (j - o) else t.getLsbD j

/-! ## The register space (20_memory.md) -/

/-- R70, R71, R64, R65: the selectors have the numbers of R70, which are 0 to 51 without repeats; the machine's ADDR_MAP gives
the ten default addresses of R71; under every well-formed ADDR_MAP (multiples of 4, without repeats, 4 bytes apart within a
bank) the addresses of the registers are aligned and distinct, consecutive registers of EN, DIS and PRI are 4 bytes apart, and
the byte at `base + k` of a register is bits `8k+7 .. 8k` of the word a read returns. The numbering is the spec's own decision
(D6), the addresses and the byte order are general knowledge in the spec (D7, D31; log 22). -/
def Obligations.SelectorsAreNumberedWithoutRepeats : Prop :=
  ((∀ r, selectorNumber (.en r) = 0 + r.val) ∧ (∀ r, selectorNumber (.dis r) = 5 + r.val)
      ∧ (∀ r, selectorNumber (.pri r) = 10 + r.val) ∧ selectorNumber .shc = 45 ∧ selectorNumber .syspri1 = 46
      ∧ selectorNumber .syspri2 = 47 ∧ selectorNumber .syspri3 = 48 ∧ selectorNumber .tctrl = 49
      ∧ selectorNumber .treload = 50 ∧ selectorNumber .tcurrent = 51)
    ∧ (∀ a : Selector, selectorNumber a < 52)
    ∧ (∀ a b : Selector, selectorNumber a = selectorNumber b → a = b)
    ∧ (∀ n, n < 52 → ∃ a, selectorNumber a = n)
    ∧ ((∀ r, selectorAddress Config.machine (.en r) = 0xE000E100 + 4 * r.val)
      ∧ (∀ r, selectorAddress Config.machine (.dis r) = 0xE000E180 + 4 * r.val)
      ∧ (∀ r, selectorAddress Config.machine (.pri r) = 0xE000E400 + 4 * r.val)
      ∧ selectorAddress Config.machine .shc = 0xE000ED24 ∧ selectorAddress Config.machine .syspri1 = 0xE000ED18
      ∧ selectorAddress Config.machine .syspri2 = 0xE000ED1C ∧ selectorAddress Config.machine .syspri3 = 0xE000ED20
      ∧ selectorAddress Config.machine .tctrl = 0xE000E010 ∧ selectorAddress Config.machine .treload = 0xE000E014
      ∧ selectorAddress Config.machine .tcurrent = 0xE000E018)
    ∧ Config.machine.addrMapWellFormed = true
    ∧ ∀ s : State, s.cfg.addrMapWellFormed = true →
        (∀ a, selectorAddress s.cfg a % 4 = 0)
          ∧ (∀ a b, selectorAddress s.cfg a = selectorAddress s.cfg b → a = b)
          ∧ (∀ r, selectorAddress s.cfg (.en r) = selectorAddress s.cfg (.en 0) + 4 * r.val)
          ∧ (∀ r, selectorAddress s.cfg (.dis r) = selectorAddress s.cfg (.dis 0) + 4 * r.val)
          ∧ (∀ r, selectorAddress s.cfg (.pri r) = selectorAddress s.cfg (.pri 0) + 4 * r.val)
          ∧ ∀ a k, k < 4 → s.surfaceByte (selectorAddress s.cfg a + k) = some ((s.regValue a).extractLsb' (8 * k) 8)

/-- R62, R68: only a read of TCTRL has a side effect, and it clears COUNTFLAG and changes nothing else. That the read clears
the flag is general knowledge in the spec (D21; log 20). -/
def Obligations.OnlyTheTctrlReadHasASideEffect : Prop :=
  ∀ (sel : Selector) (s : State),
    (sel ≠ .tctrl → s.regReadEffect sel = s)
      ∧ (sel = .tctrl → s.regReadEffect sel = { s with countFlag := false })

/-- R31, R32, R63: a write of EN sets, a write of DIS clears, exactly the bits written as 1; zeros written change nothing;
what EN and DIS read is IEN (DIS: IEN or 0 by DIS_READ_MODE). The write-one behaviour is general knowledge in the spec (D10;
log 20). -/
def Obligations.EnableAndDisableRegistersAreViewsOfIen : Prop :=
  ∀ (s : State) (r : Fin 5) (v : Word) (j : Nat),
    (s.regWrite (.en r) v).ien.getLsbD j
        = (s.ien.getLsbD j || (decide (32 * r.val ≤ j ∧ j < 32 * r.val + 32) && v.getLsbD (j - 32 * r.val)))
      ∧ (s.regWrite (.dis r) v).ien.getLsbD j
        = (s.ien.getLsbD j && !(decide (32 * r.val ≤ j ∧ j < 32 * r.val + 32) && v.getLsbD (j - 32 * r.val)))
      ∧ (s.regValue (.en r)).getLsbD j = (decide (j < 32) && s.ien.getLsbD (32 * r.val + j))
      ∧ (s.cfg.disReadMode = .zero → s.regValue (.dis r) = 0)
      ∧ (s.cfg.disReadMode = .enableState → s.regValue (.dis r) = s.regValue (.en r))

/-- R33, R36 to R39, R40 to R42, R63: what a read returns after a write of the same register, for the registers that are not
views of IEN; a write of TCURRENT leaves the mode bits of TCTRL and TRELOAD as they were. What a write of TCURRENT clears and
what TCTRL ignores is general knowledge in the spec (D38, D42; log 20). -/
def Obligations.ReadAfterWriteOfTheSameRegister : Prop :=
  ∀ (s : State) (v : Word),
    (∀ r, s.cfg.priLowBits = .stored → (s.regWrite (.pri r) v).regValue (.pri r) = v)
      ∧ (∀ r, s.cfg.priLowBits = .razWi → (s.regWrite (.pri r) v).regValue (.pri r) = v &&& 0xE0E0E0E0)
      ∧ (s.regWrite .shc v).regValue .shc = v
      ∧ (s.regWrite .syspri1 v).regValue .syspri1 = v
      ∧ (s.regWrite .syspri2 v).regValue .syspri2 = v
      ∧ (s.regWrite .syspri3 v).regValue .syspri3 = v
      ∧ (s.regWrite .tctrl v).enable = v.getLsbD s.cfg.tctrlEnableBit.val
      ∧ (s.regWrite .tctrl v).tickInt = v.getLsbD s.cfg.tctrlTickIntBit.val
      ∧ (s.regWrite .tctrl v).clkSrc = v.getLsbD s.cfg.tctrlClkSrcBit.val
      ∧ (s.regWrite .tctrl v).countFlag = s.countFlag
      ∧ (s.cfg.timerBits ≤ 32 →
          ((s.regWrite .treload v).regValue .treload).toNat = v.toNat % 2 ^ s.cfg.timerBits)
      ∧ (s.regWrite .tcurrent v).regValue .tcurrent = 0
      ∧ (s.regWrite .tcurrent v).countFlag = false
      ∧ (s.regWrite .tcurrent v).enable = s.enable ∧ (s.regWrite .tcurrent v).tickInt = s.tickInt
      ∧ (s.regWrite .tcurrent v).clkSrc = s.clkSrc ∧ (s.regWrite .tcurrent v).treload = s.treload

/-- R40: the word TCTRL reads has the mode bits and COUNTFLAG at their positions and 0 elsewhere. The positions are parameters
and the reserved bits the spec's own decision (D17, D42; log 5, log 20). -/
def Obligations.TctrlWordShowsItsFields : Prop :=
  ∀ s : State, s.cfg.wellFormed = true →
    (s.regValue .tctrl).getLsbD s.cfg.tctrlEnableBit.val = s.enable
      ∧ (s.regValue .tctrl).getLsbD s.cfg.tctrlTickIntBit.val = s.tickInt
      ∧ (s.regValue .tctrl).getLsbD s.cfg.tctrlClkSrcBit.val = s.clkSrc
      ∧ (s.regValue .tctrl).getLsbD s.cfg.tctrlCountFlagBit.val = s.countFlag
      ∧ ∀ j, j ≠ s.cfg.tctrlEnableBit.val → j ≠ s.cfg.tctrlTickIntBit.val → j ≠ s.cfg.tctrlClkSrcBit.val →
          j ≠ s.cfg.tctrlCountFlagBit.val → (s.regValue .tctrl).getLsbD j = false

/-- R33, R42, R63, R68: a write of one register leaves what every other register reads, but for the two views EN and DIS of
one word of IEN, and leaves everything that is no register alone: both banks, CTX, HANDLER_ACTIVE, CB, the masks,
TICK_PENDING, and the model's own fields. The exception of TCTRL after a write of TCURRENT is log 20 (D38);
ReadAfterWriteOfTheSameRegister says what the mode bits hold there. -/
def Obligations.AWriteLeavesOtherRegistersAlone : Prop :=
  ∀ (s : State) (a b : Selector) (v : Word), a ≠ b →
    (∀ r, ¬ (a = .en r ∧ b = .dis r) ∧ ¬ (a = .dis r ∧ b = .en r)) →
    ¬ (a = .tcurrent ∧ b = .tctrl) →
    (s.regWrite a v).regValue b = s.regValue b
      ∧ (s.regWrite a v).cb = s.cb ∧ SameMasks s (s.regWrite a v) ∧ SameOutside s (s.regWrite a v)
      ∧ SameContext s (s.regWrite a v) ∧ (s.regWrite a v).bank = s.bank
      ∧ (s.regWrite a v).history = s.history

/-! ## Acceptance and the sequencer -/

/-- R90, R91: an idle bank accepts the presented word: OP, A and B are its fields and USTEP is 1; no register, no other latch
and no other bank changes, and no event is recorded. Acceptance as a step is the spec's own decision (D2); that T and the
loaded callback value stay is the model's choice (log 31). -/
def Obligations.AcceptanceLoadsTheLatches : Prop :=
  ∀ (s : State) (w : CommandWord) (rest : List Input),
    s.inputs = .present w :: rest → s.lat.ustep = 0 → s.lat.calling = none →
    ∃ t, step s = .next t
      ∧ t.lat = { s.lat with
          op := w.extractLsb' 40 8, a := w.extractLsb' 32 8, b := w.extractLsb' 0 32, ustep := 1 }
      ∧ t.bank.saved = s.bank.saved ∧ t.bank.res = s.bank.res
      ∧ SameIrqController s t ∧ SameTimer s t ∧ t.cb = s.cb ∧ SameMasks s t ∧ SameContext s t
      ∧ t.tickPending = s.tickPending ∧ t.cfg = s.cfg ∧ t.draws = s.draws ∧ t.history = s.history ∧ t.inputs = rest

/-- R21, R25: where the latched word decodes to `i` and the command is in progress, a step in which the executing context goes
on is exactly `exec i`: with no input left (that an empty list of inputs means this is the model's choice, log 2), with the
input `micro` (which is used up), and while a presented word or the callback's return waits for the command to end (that they
wait is the model's choice, log 3). -/
def Obligations.StepRunsTheDecodedInstruction : Prop :=
  ∀ (s : State) (i : Instr), s.canAccept = false → decode (CommandWord.ofFields s.lat.op s.lat.a s.lat.b) = .ok i →
    (s.inputs = [] → step s = exec i s)
      ∧ (∀ rest, s.inputs = .micro :: rest → step s = exec i { s with inputs := rest })
      ∧ (∀ w rest, s.inputs = .present w :: rest → step s = exec i s)
      ∧ (∀ rest, s.inputs = .callReturn :: rest → step s = exec i s)

/-- R24, R179, R240: an idle bank waits for a command and a `Handler` in CallOut waits for the callback's return: the
executing context changes nothing. That an empty list of inputs means this is the model's choice (log 2, log 3). -/
def Obligations.AnIdleOrCallingBankWaits : Prop :=
  ∀ s : State, s.canAccept = true →
    (s.inputs = [] → step s = .next s)
      ∧ (∀ rest, s.inputs = .micro :: rest → step s = .next { s with inputs := rest })

/-- R25, R76, R213: a micro-step is one event; only the end of the dispatched `Handler` records a second one, the handler
return, in the same step. The history is the spec's own decision (D27; log 15). -/
def Obligations.AMicroStepRecordsOneEvent : Prop :=
  ∀ (i : Instr) (s t : State), (exec i s = .next t ∨ s.reservedOpcode = .next t) → s.canAccept = false →
    ∃ e, t.history = e :: s.history
      ∨ (t.history = .handlerReturn :: e :: s.history ∧ s.ctx = .interrupt ∧ t.ctx = .normal)

/-- R104, R91: the words with opcode 0x00 or 0x0E and above, and no others, decode to no operation; such a command is
accepted, makes no register access and no state change, and ends with RES_ERR_OPCODE. The spec's own decision (D32). -/
def Obligations.ReservedOpcodesEndWithErrOpcode : Prop :=
  ∀ w : CommandWord,
    ((∃ e, decode w = .error e) ↔ (w.extractLsb' 40 8 = 0 ∨ 0x0E ≤ (w.extractLsb' 40 8).toNat))
      ∧ ∀ s : State, (w.extractLsb' 40 8 = 0 ∨ 0x0E ≤ (w.extractLsb' 40 8).toNat) →
          s.inputs = [.present w] → s.canAccept = true →
          ∃ u t, step s = .next u ∧ step u = .next t
            ∧ SameIrqController s u ∧ SameTimer s u ∧ u.cb = s.cb ∧ SameMasks s u ∧ u.ctx = s.ctx
            ∧ u.tickPending = s.tickPending ∧ u.handlerActive = s.handlerActive ∧ u.history = s.history
            ∧ OnlyEnded u .errOpcode t

/-! ## Interrupt-request operations (40_irq_ops.md) -/

/-- R120, R121: with an identifier in range, `EnableIRQ` reads EN(id/32), writes it back with bit `id % 32` set, and ends with
RES_OK; of IEN exactly the bit of `id` becomes 1; everything else is unchanged. That it is a read-modify-write is the spec's
own decision (D8). -/
def Obligations.EnableIrqSetsExactlyItsBit : Prop :=
  ∀ (s : State) (id : Byte), s.AtStep 1 → id.toNat < s.cfg.nIrq.val →
    ∃ s1 s2 t, exec (.enableIRQ id) s = .next s1 ∧ exec (.enableIRQ id) s1 = .next s2 ∧ exec (.enableIRQ id) s2 = .next t
      ∧ (∀ j, t.ien.getLsbD j = (s.ien.getLsbD j || decide (j = id.toNat)))
      ∧ SamePriorities s t ∧ SameSystemRegisters s t ∧ SameTimer s t ∧ t.cb = s.cb ∧ SameMasks s t ∧ SameOutside s t
      ∧ CommandEnded s .ok t
      ∧ ∃ r : Fin 5, r.val = id.toNat / 32
          ∧ t.history = endEvents s .ok ++ .write s.ctx (.en r) (s.regValue (.en r) ||| 1#32 <<< (id.toNat % 32))
              :: .read s.ctx (.en r) (s.regValue (.en r)) :: s.history

/-- R122, R123: `DisableIRQ` of an identifier in range clears IEN[id] and never sets a bit; under ZERO it changes no other
bit; under ENABLE_STATE it clears the whole enable register of `id` (R251); everything else is unchanged. That a zero written
to DIS changes nothing is general knowledge in the spec (D10; log 20). -/
def Obligations.DisableIrqClearsItsBit : Prop :=
  ∀ (s : State) (id : Byte), s.AtStep 1 → id.toNat < s.cfg.nIrq.val →
    ∃ s1 s2 t, exec (.disableIRQ id) s = .next s1 ∧ exec (.disableIRQ id) s1 = .next s2 ∧ exec (.disableIRQ id) s2 = .next t
      ∧ t.ien.getLsbD id.toNat = false
      ∧ (∀ j, j / 32 ≠ id.toNat / 32 → t.ien.getLsbD j = s.ien.getLsbD j)
      ∧ (∀ j, t.ien.getLsbD j = true → s.ien.getLsbD j = true)
      ∧ (s.cfg.disReadMode = .zero → ∀ j, t.ien.getLsbD j = (s.ien.getLsbD j && !decide (j = id.toNat)))
      ∧ (s.cfg.disReadMode = .enableState →
          ∀ j, t.ien.getLsbD j = (s.ien.getLsbD j && !decide (j / 32 = id.toNat / 32)))
      ∧ SamePriorities s t ∧ SameSystemRegisters s t ∧ SameTimer s t ∧ t.cb = s.cb ∧ SameMasks s t ∧ SameOutside s t
      ∧ CommandEnded s .ok t
      ∧ ∃ r : Fin 5, r.val = id.toNat / 32
          ∧ t.history = endEvents s .ok ++ .write s.ctx (.dis r) (s.regValue (.dis r) ||| 1#32 <<< (id.toNat % 32))
              :: .read s.ctx (.dis r) (s.regValue (.dis r)) :: s.history

/-- R124, R125, R102: with an identifier in range and a priority that PRIO_POLICY does not reject, `SetPriorityIRQ` writes
`priority[2:0]` into the field of `id` and changes no other bit of any priority register; the result is RES_OK for 0..7 and
RES_PRIO_RANGE above; everything else is unchanged. That a priority above 7 is written truncated with that result is the
spec's own decision (D12); what REJECT rejects is stated by RejectPolicyMakesNoAccess. The priority registers are taken as
PRI_LOW_BITS lets them be (R35). -/
def Obligations.SetPriorityIrqWritesExactlyItsField : Prop :=
  ∀ (s : State) (id : Byte) (priority : Word), s.AtStep 1 → s.WidthsSound → id.toNat < s.cfg.nIrq.val →
    ¬ (s.cfg.prioPolicy = .reject ∧ 7 < priority.toNat) →
    ∃ s1 s2 t, exec (.setPriorityIRQ id priority) s = .next s1 ∧ exec (.setPriorityIRQ id priority) s1 = .next s2
      ∧ exec (.setPriorityIRQ id priority) s2 = .next t
      ∧ (∀ (r : Fin 35) (j : Nat), (t.pri.get r).getLsbD j
          = if r.val = id.toNat / 4 ∧ id.toNat % 4 * 8 + 5 ≤ j ∧ j < id.toNat % 4 * 8 + 8
            then priority.getLsbD (j - (id.toNat % 4 * 8 + 5)) else (s.pri.get r).getLsbD j)
      ∧ t.ien = s.ien ∧ SameSystemRegisters s t ∧ SameTimer s t ∧ t.cb = s.cb ∧ SameMasks s t ∧ SameOutside s t
      ∧ CommandEnded s (if priority.toNat ≤ 7 then .ok else .prioRange) t
      ∧ ∃ r : Fin 35, r.val = id.toNat / 4
          ∧ t.history = endEvents s (if priority.toNat ≤ 7 then .ok else .prioRange)
              ++ .write s.ctx (.pri r) (t.pri.get r) :: .read s.ctx (.pri r) (s.pri.get r) :: s.history

/-- R101, R106, R204: an identifier of N_IRQ or more makes no register access and no state change and ends with RES_ERR_ID,
for the three IRQ operations and whatever the priority operand. That the check covers `SetPriorityIRQ` is the spec's own
decision (D13). -/
def Obligations.OutOfRangeIdentifiersAreRejected : Prop :=
  ∀ (s : State) (id : Byte) (priority : Word), s.AtStep 1 → s.cfg.nIrq.val ≤ id.toNat →
    (∃ t, exec (.enableIRQ id) s = .next t ∧ OnlyEnded s .errId t)
      ∧ (∃ t, exec (.disableIRQ id) s = .next t ∧ OnlyEnded s .errId t)
      ∧ (∃ t, exec (.setPriorityIRQ id priority) s = .next t ∧ OnlyEnded s .errId t)

/-- R102, R124, R155: under REJECT a priority above 7 makes no register access and ends with RES_PRIO_RANGE. The spec's own
decision (D12). -/
def Obligations.RejectPolicyMakesNoAccess : Prop :=
  ∀ (s : State) (a : Byte) (priority : Word), s.AtStep 1 → s.cfg.prioPolicy = .reject → 7 < priority.toNat →
    (a.toNat < s.cfg.nIrq.val → ∃ t, exec (.setPriorityIRQ a priority) s = .next t ∧ OnlyEnded s .prioRange t)
      ∧ (a.toNat ∈ [3, 4, 5, 6, 7, 8, 9] →
          ∃ t, exec (.setPriorityException a priority) s = .next t ∧ OnlyEnded s .prioRange t)

/-- R126: a second `EnableIRQ` of the same identifier leaves the register state as the first left it, and so do a second
`DisableIRQ`, under both values of DIS_READ_MODE, and a second `SetPriorityIRQ` with the same operands: IEN and the priority
registers, the system registers, the timer, CB and the masks; nothing steps between the micro-steps of either. The rule is the
spec's own inference from R120, R122 and R124. -/
def Obligations.IrqOperationsAreIdempotent : Prop :=
  ∀ (id : Byte) (priority : Word) (i : Instr) (s s1 s2 t u u1 u2 v : State),
    i = .enableIRQ id ∨ i = .disableIRQ id ∨ i = .setPriorityIRQ id priority →
    id.toNat < s.cfg.nIrq.val → ¬ (s.cfg.prioPolicy = .reject ∧ 7 < priority.toNat) →
    s.AtStep 1 → exec i s = .next s1 → exec i s1 = .next s2 → exec i s2 = .next t →
    u.AtStep 1 → u.cfg = s.cfg → u.ien = t.ien → u.pri = t.pri →
    exec i u = .next u1 → exec i u1 = .next u2 → exec i u2 = .next v →
    v.ien = t.ien ∧ v.pri = t.pri
      ∧ (SameSystemRegisters t u → SameIrqController t v) ∧ (SameTimer t u → SameTimer t v)
      ∧ (u.cb = t.cb → v.cb = t.cb) ∧ (SameMasks t u → SameMasks t v)
      ∧ ∀ sel, u.regValue sel = t.regValue sel → v.regValue sel = t.regValue sel

/-! ## System-exception operations (41_exception_ops.md) -/

/-- R146, R147, R148: `EnableException` of memory-, bus- or usage-fault sets, and `DisableException` clears, exactly that
kind's bit of SHC by read-modify-write; every other bit and everything else is unchanged. -/
def Obligations.FaultKindsSetAndClearExactlyTheirShcBit : Prop :=
  ∀ (s : State) (kind : Byte) (bit : Fin 32), s.AtStep 1 →
    ((kind = 3 ∧ bit = s.cfg.shcMemBit) ∨ (kind = 4 ∧ bit = s.cfg.shcBusBit) ∨ (kind = 5 ∧ bit = s.cfg.shcUsgBit)) →
    (∃ s1 s2 t, exec (.enableException kind) s = .next s1 ∧ exec (.enableException kind) s1 = .next s2
      ∧ exec (.enableException kind) s2 = .next t
      ∧ (∀ j, t.shc.getLsbD j = (s.shc.getLsbD j || decide (j = bit.val)))
      ∧ t.ien = s.ien ∧ SamePriorities s t ∧ t.syspri1 = s.syspri1 ∧ t.syspri2 = s.syspri2 ∧ t.syspri3 = s.syspri3
      ∧ SameTimer s t ∧ t.cb = s.cb ∧ SameMasks s t ∧ SameOutside s t ∧ CommandEnded s .ok t
      ∧ t.history = endEvents s .ok ++ .write s.ctx .shc t.shc :: .read s.ctx .shc s.shc :: s.history)
    ∧ (∃ s1 s2 t, exec (.disableException kind) s = .next s1 ∧ exec (.disableException kind) s1 = .next s2
      ∧ exec (.disableException kind) s2 = .next t
      ∧ (∀ j, t.shc.getLsbD j = (s.shc.getLsbD j && !decide (j = bit.val)))
      ∧ t.ien = s.ien ∧ SamePriorities s t ∧ t.syspri1 = s.syspri1 ∧ t.syspri2 = s.syspri2 ∧ t.syspri3 = s.syspri3
      ∧ SameTimer s t ∧ t.cb = s.cb ∧ SameMasks s t ∧ SameOutside s t ∧ CommandEnded s .ok t
      ∧ t.history = endEvents s .ok ++ .write s.ctx .shc t.shc :: .read s.ctx .shc s.shc :: s.history)

/-- R144, R145, R152, R153, R154: enabling HARD_FAULT clears FMASK and disabling it sets FMASK; enabling ALL_INTERRUPTS clears
IMASK and disabling it sets IMASK; each in one micro-step, with no register access and the other mask untouched. The polarity
of the masks is the spec's own decision (D44). -/
def Obligations.TheMaskKindsDriveTheirOwnMask : Prop :=
  ∀ s : State, s.AtStep 1 →
    (∃ s1 t, exec (.enableException 2) s = .next s1 ∧ exec (.enableException 2) s1 = .next t
      ∧ t.fmask = false ∧ t.imask = s.imask ∧ SameIrqController s t ∧ SameTimer s t ∧ t.cb = s.cb ∧ SameOutside s t
      ∧ CommandEnded s .ok t ∧ t.history = endEvents s .ok ++ .setFMask s.ctx false :: s.history)
    ∧ (∃ s1 t, exec (.disableException 2) s = .next s1 ∧ exec (.disableException 2) s1 = .next t
      ∧ t.fmask = true ∧ t.imask = s.imask ∧ SameIrqController s t ∧ SameTimer s t ∧ t.cb = s.cb ∧ SameOutside s t
      ∧ CommandEnded s .ok t ∧ t.history = endEvents s .ok ++ .setFMask s.ctx true :: s.history)
    ∧ (∃ s1 t, exec (.enableException 10) s = .next s1 ∧ exec (.enableException 10) s1 = .next t
      ∧ t.imask = false ∧ t.fmask = s.fmask ∧ SameIrqController s t ∧ SameTimer s t ∧ t.cb = s.cb ∧ SameOutside s t
      ∧ CommandEnded s .ok t ∧ t.history = endEvents s .ok ++ .setIMask s.ctx false :: s.history)
    ∧ (∃ s1 t, exec (.disableException 10) s = .next s1 ∧ exec (.disableException 10) s1 = .next t
      ∧ t.imask = true ∧ t.fmask = s.fmask ∧ SameIrqController s t ∧ SameTimer s t ∧ t.cb = s.cb ∧ SameOutside s t
      ∧ CommandEnded s .ok t ∧ t.history = endEvents s .ok ++ .setIMask s.ctx true :: s.history)

/-- R149: `EnableException(SVC)` raises SVC_REQ once, changes no state of the block, and ends with RES_OK. -/
def Obligations.EnablingSvcRaisesTheEventOnce : Prop :=
  ∀ s : State, s.AtStep 1 →
    ∃ s1 t, exec (.enableException 6) s = .next s1 ∧ exec (.enableException 6) s1 = .next t
      ∧ SameIrqController s t ∧ SameTimer s t ∧ t.cb = s.cb ∧ SameMasks s t ∧ SameOutside s t
      ∧ CommandEnded s .ok t ∧ t.history = endEvents s .ok ++ .svc s.ctx :: s.history

/-- R142, R150, R151, R157, R204: RESET, NMI, DEBUG_MONITOR, PEND_SV and SYSTICK have no enable or disable, SVC has no
disable, and RESET, NMI, HARD_FAULT and ALL_INTERRUPTS have no priority field, whatever the priority operand: no access, no
state change, RES_NOP_UNSUPPORTED. For the kinds the source does not name, the spec's own decision (D14, D15). -/
def Obligations.KindsWithoutTheControlDoNothing : Prop :=
  ∀ (s : State) (kind : Byte) (priority : Word), s.AtStep 1 →
    (kind.toNat ∈ [0, 1, 7, 8, 9] → ∃ t, exec (.enableException kind) s = .next t ∧ OnlyEnded s .nopUnsupported t)
      ∧ (kind.toNat ∈ [0, 1, 6, 7, 8, 9] →
          ∃ t, exec (.disableException kind) s = .next t ∧ OnlyEnded s .nopUnsupported t)
      ∧ (kind.toNat ∈ [0, 1, 2, 10] →
          ∃ t, exec (.setPriorityException kind priority) s = .next t ∧ OnlyEnded s .nopUnsupported t)

/-- R143, R204: a kind of 11 or more makes no access and no state change and ends with RES_ERR_ID, for the three exception
operations and whatever the priority operand. -/
def Obligations.ReservedKindsAreRejected : Prop :=
  ∀ (s : State) (kind : Byte) (priority : Word), s.AtStep 1 → 11 ≤ kind.toNat →
    (∃ t, exec (.enableException kind) s = .next t ∧ OnlyEnded s .errId t)
      ∧ (∃ t, exec (.disableException kind) s = .next t ∧ OnlyEnded s .errId t)
      ∧ (∃ t, exec (.setPriorityException kind priority) s = .next t ∧ OnlyEnded s .errId t)

/-- R155, R156, R158, R159, R98, R102: for the seven kinds with a field and a priority that PRIO_POLICY does not reject,
`SetPriorityException` reads and writes the register of R98 and no other, sets the three bits of the kind's field to
`priority[2:0]`, and changes no other bit of any register; the result is RES_OK for 0..7 and RES_PRIO_RANGE above. That a
priority above 7 is written truncated with that result is the spec's own decision (D12). -/
def Obligations.SetPriorityExceptionWritesExactlyItsField : Prop :=
  ∀ (s : State) (kind : Byte) (priority : Word) (sel : Selector) (o : Nat), s.AtStep 1 →
    (kind.toNat, sel, o) ∈ [(3, Selector.syspri1, 5), (4, .syspri1, 13), (5, .syspri1, 21), (6, .syspri2, 29),
      (7, .syspri3, 5), (8, .syspri3, 21), (9, .syspri3, 29)] →
    ¬ (s.cfg.prioPolicy = .reject ∧ 7 < priority.toNat) →
    ∃ s1 s2 t, exec (.setPriorityException kind priority) s = .next s1
      ∧ exec (.setPriorityException kind priority) s1 = .next s2
      ∧ exec (.setPriorityException kind priority) s2 = .next t
      ∧ (∀ j, (t.regValue sel).getLsbD j
          = if o ≤ j ∧ j < o + 3 then priority.getLsbD (j - o) else (s.regValue sel).getLsbD j)
      ∧ (∀ other, other ≠ sel → t.regValue other = s.regValue other)
      ∧ SameTimer s t ∧ t.ien = s.ien ∧ SamePriorities s t ∧ t.cb = s.cb ∧ SameMasks s t ∧ SameOutside s t
      ∧ CommandEnded s (if priority.toNat ≤ 7 then .ok else .prioRange) t
      ∧ t.history = endEvents s (if priority.toNat ≤ 7 then .ok else .prioRange)
          ++ .write s.ctx sel (t.regValue sel) :: .read s.ctx sel (s.regValue sel) :: s.history

/-! ## Timer-driver operations (42_timer_ops.md) -/

/-- R170, R171: `Init` leaves ENABLE, TICKINT and CLKSRC 1, COUNTFLAG 0, TCURRENT 0 and in TRELOAD the low TIMER_BITS bits of
`periodMs * TICKS_PER_MS - 1` computed modulo 2^32; CB, TICK_PENDING and everything else is unchanged. COUNTFLAG rests on log
20 (D21, D38), the wrap of the product on the spec's own decision (D24). -/
def Obligations.InitArmsTheTimer : Prop :=
  ∀ (s : State) (p : Word), s.AtStep 1 →
    ∃ s1 s2 s3 s4 s5 t, exec (.init p) s = .next s1 ∧ exec (.init p) s1 = .next s2 ∧ exec (.init p) s2 = .next s3
      ∧ exec (.init p) s3 = .next s4 ∧ exec (.init p) s4 = .next s5 ∧ exec (.init p) s5 = .next t
      ∧ t.enable = true ∧ t.tickInt = true ∧ t.clkSrc = true ∧ t.countFlag = false ∧ t.tcurrent = 0
      ∧ t.treload = truncTimer s.cfg (p * s.cfg.ticksPerMs - 1)
      ∧ SameIrqController s t ∧ t.cb = s.cb ∧ SameMasks s t ∧ SameOutside s t ∧ CommandEnded s .ok t
      ∧ t.history = endEvents s .ok
          ++ .write s.ctx .tctrl (1#32 <<< s.cfg.tctrlEnableBit.val ||| 1#32 <<< s.cfg.tctrlTickIntBit.val
              ||| 1#32 <<< s.cfg.tctrlClkSrcBit.val)
          :: .read s.ctx .tctrl 0 :: .write s.ctx .tcurrent 0
          :: .write s.ctx .treload (p * s.cfg.ticksPerMs - 1) :: .write s.ctx .tctrl 0 :: s.history

/-- R171, R103: what TRELOAD keeps of the period is `periodMs * TICKS_PER_MS - 1` as a natural number exactly when the product
is at least 1 and at most 2^TIMER_BITS. The wrap is the spec's own decision (D24). -/
def Obligations.TheReloadIsThePeriodExactlyWhenItFits : Prop :=
  ∀ (cfg : Config) (p : Word), cfg.wellFormed = true →
    (truncTimer cfg (reload32 cfg p)).toNat < 2 ^ cfg.timerBits
      ∧ ((truncTimer cfg (reload32 cfg p)).toNat + 1 = p.toNat * cfg.ticksPerMs.toNat
          ↔ 1 ≤ p.toNat * cfg.ticksPerMs.toNat ∧ p.toNat * cfg.ticksPerMs.toNat ≤ 2 ^ cfg.timerBits)

/-- R172, R173, R103: `StartBusyWait` of every period enters the poll loop with the timer counting without the interrupt,
TRELOAD holding the low TIMER_BITS bits of `periodMs * TICKS_PER_MS - 1` computed modulo 2^32, and TCURRENT and COUNTFLAG 0,
which is where BusyWaitDoesNotReturnEarly and BusyWaitWithZeroReloadNeverEnds start. Where that reload is not 0, the poll
after exactly `reload + 1` ticks sees the flag; then the timer is zeroed and the result is RES_OK. CB, TICK_PENDING and
everything outside the timer is unchanged. The count rests on the tick rule, general knowledge in the spec (D20; log 20), the
wrap on the spec's own decision (D24). -/
def Obligations.BusyWaitCompletesAfterThePeriod : Prop :=
  ∀ (s : State) (p : Word), s.cfg.wellFormed = true → s.AtStep 1 →
    ∃ s1 s2 s3 s4 s5, exec (.startBusyWait p) s = .next s1 ∧ exec (.startBusyWait p) s1 = .next s2
      ∧ exec (.startBusyWait p) s2 = .next s3 ∧ exec (.startBusyWait p) s3 = .next s4
      ∧ exec (.startBusyWait p) s4 = .next s5
      ∧ s5.AtStep 6 ∧ s5.latchedWord = s.latchedWord
      ∧ s5.enable = true ∧ s5.tickInt = false ∧ s5.clkSrc = true ∧ s5.countFlag = false ∧ s5.tcurrent = 0
      ∧ s5.treload = truncTimer s.cfg (p * s.cfg.ticksPerMs - 1)
      ∧ SameIrqController s s5 ∧ s5.cb = s.cb ∧ SameMasks s s5 ∧ SameOutside s s5 ∧ SameContext s s5
      ∧ s5.history = .write s.ctx .tctrl (1#32 <<< s.cfg.tctrlEnableBit.val ||| 1#32 <<< s.cfg.tctrlClkSrcBit.val)
          :: .read s.ctx .tctrl 0 :: .write s.ctx .tcurrent 0
          :: .write s.ctx .treload (p * s.cfg.ticksPerMs - 1) :: .write s.ctx .tctrl 0 :: s.history
      ∧ (truncTimer s.cfg (p * s.cfg.ticksPerMs - 1) ≠ 0 →
        ∃ u1 u2 u3 u4 t,
          exec (.startBusyWait p) (s5.ticks ((truncTimer s.cfg (p * s.cfg.ticksPerMs - 1)).toNat + 1)) = .next u1
          ∧ exec (.startBusyWait p) u1 = .next u2 ∧ exec (.startBusyWait p) u2 = .next u3
          ∧ exec (.startBusyWait p) u3 = .next u4 ∧ exec (.startBusyWait p) u4 = .next t
          ∧ t.enable = false ∧ t.tickInt = false ∧ t.clkSrc = false ∧ t.countFlag = false
          ∧ t.treload = 0 ∧ t.tcurrent = 0
          ∧ SameIrqController s t ∧ t.cb = s.cb ∧ SameMasks s t ∧ SameOutside s t ∧ CommandEnded s .ok t)

/-- R172: a poll that reads COUNTFLAG as 0 goes back to the poll: only T and the history change. That the poll's read clears
the flag is log 20 (D21). -/
def Obligations.APollWithoutTheFlagPollsAgain : Prop :=
  ∀ (s : State) (p : Word), s.cfg.wellFormed = true → s.AtStep 6 → s.countFlag = false →
    ∃ t, exec (.startBusyWait p) s = .next t ∧ t.AtStep 6 ∧ t.lat = { s.lat with t := s.regValue .tctrl }
      ∧ SameIrqController s t ∧ SameTimer s t ∧ t.cb = s.cb ∧ SameMasks s t ∧ SameOutside s t ∧ SameContext s t
      ∧ t.bank.saved = s.bank.saved ∧ t.bank.res = s.bank.res
      ∧ t.history = .read s.ctx .tctrl (s.regValue .tctrl) :: s.history

/-- R173, R172: "returns only after the period elapses": from the poll loop of a wait with reload R >= 1 that has just been
entered, no schedule of polls and ticks with at most R ticks leaves the loop or shows the flag. The count rests on the tick
rule (D20; log 20). -/
def Obligations.BusyWaitDoesNotReturnEarly : Prop :=
  ∀ (s : State) (p : Word) (xs : List Input), s.cfg.wellFormed = true → s.AtStep 6 →
    decode s.latchedWord = .ok (.startBusyWait p) → s.enable = true → s.tcurrent = 0 → s.countFlag = false →
    s.treload ≠ 0 → (∀ x ∈ xs, TickOrMicro x = true) → xs.count .tick ≤ s.treload.toNat →
    ∃ t, core.run xs.length { s with inputs := xs } = .next t
      ∧ t.AtStep 6 ∧ t.latchedWord = s.latchedWord ∧ t.countFlag = false ∧ t.enable = true ∧ t.treload = s.treload

/-- R173, R218, R255: a wait whose reload truncated to 0 never ends: no schedule of polls and ticks, however long, leaves the
poll loop. Rests on the tick rule (D20; log 20). -/
def Obligations.BusyWaitWithZeroReloadNeverEnds : Prop :=
  ∀ (s : State) (p : Word) (xs : List Input), s.cfg.wellFormed = true → s.AtStep 6 →
    decode s.latchedWord = .ok (.startBusyWait p) → s.tcurrent = 0 → s.countFlag = false → s.treload = 0 →
    (∀ x ∈ xs, TickOrMicro x = true) →
    ∃ t, core.run xs.length { s with inputs := xs } = .next t
      ∧ t.AtStep 6 ∧ t.countFlag = false ∧ t.tcurrent = 0 ∧ t.tickPending = s.tickPending

/-- R176, R177, R77: `SetCallBack` replaces the whole slot in one store, by `none` where the operand is `none`, and changes
nothing else. That an operand empties the slot is the spec's own decision (D25); `some 0` is no operand of a command, as no
word decodes to it (log 27). -/
def Obligations.SetCallBackReplacesTheSlot : Prop :=
  ∀ (s : State) (fn : Option Reference), fn ≠ some 0 → s.AtStep 1 →
    ∃ s1 t, exec (.setCallBack fn) s = .next s1 ∧ exec (.setCallBack fn) s1 = .next t
      ∧ s1.cb = fn ∧ t.cb = fn
      ∧ SameIrqController s t ∧ SameTimer s t ∧ SameMasks s t ∧ SameOutside s t ∧ CommandEnded s .ok t
      ∧ t.history = endEvents s .ok ++ .cbStore s.ctx fn :: s.history

/-- R178, R180: `Handler` with an empty slot makes no call, changes nothing and ends with RES_NOP_NO_CALLBACK. -/
def Obligations.HandlerWithAnEmptySlotMakesNoCall : Prop :=
  ∀ s : State, s.AtStep 1 → s.cb = none →
    ∃ s1 t, exec .handler s = .next s1 ∧ exec .handler s1 = .next t
      ∧ SameIrqController s t ∧ SameTimer s t ∧ t.cb = none ∧ SameMasks s t ∧ SameOutside s t
      ∧ CommandEnded s .nopNoCallback t
      ∧ t.history = endEvents s .nopNoCallback ++ .cbLoad s.ctx none :: s.history

/-- R178, R179, R180: `Handler` with `some g` in the slot calls `g` once, waits until the callback returns, and then ends with
RES_OK; it writes no register, mask or slot itself. How the return arrives is the model's choice (log 3, log 12). -/
def Obligations.HandlerCallsTheCallbackOnceAndWaits : Prop :=
  ∀ (s : State) (g : Reference), s.AtStep 1 → s.cb = some g →
    ∃ s1 s2 t, exec .handler s = .next s1 ∧ exec .handler s1 = .next s2
      ∧ s2.lat.calling = some g ∧ s2.runContext = .next s2
      ∧ exec .handler s2.callReturn = .next t
      ∧ SameIrqController s t ∧ SameTimer s t ∧ t.cb = s.cb ∧ SameMasks s t ∧ SameOutside s t
      ∧ CommandEnded s .ok t
      ∧ t.history = endEvents s .ok ++ .ret g :: .call g :: .cbLoad s.ctx (some g) :: s.history

/-- R179, R23: the callback's return ends CallOut: the `Handler` in the current bank goes on with its next micro-step, and
nothing else changes but that the input is used up and the return recorded. That call and return are two steps, and that USTEP
counts the micro-step at the return, is the model's reading (log 12); that the input has no effect where no call-out waits is
the model's choice (log 3). -/
def Obligations.TheCallbackReturnResumesTheHandler : Prop :=
  ∀ (s : State) (rest : List Input), s.inputs = .callReturn :: rest → s.canAccept = true →
    ∃ t, step s = .next t
      ∧ (∀ g, s.lat.calling = some g →
          t.lat = { s.lat with calling := none, ustep := s.lat.ustep + 1 } ∧ t.history = .ret g :: s.history)
      ∧ (s.lat.calling = none → t = { s with inputs := rest })
      ∧ SameIrqController s t ∧ SameTimer s t ∧ t.cb = s.cb ∧ SameMasks s t ∧ SameContext s t
      ∧ t.tickPending = s.tickPending ∧ t.bank.saved = s.bank.saved ∧ t.bank.res = s.bank.res
      ∧ t.cfg = s.cfg ∧ t.draws = s.draws ∧ t.inputs = rest

/-- R23, R91: a command presented while `Handler` waits in CallOut is accepted as in an idle bank, and the `Handler`'s latches
are saved: no register, mask, slot or other bank changes and no event is recorded. The end of the command gives them back: OP,
A, B, T, the loaded slot value and USTEP are as they were, in the same context, and the end changes nothing else. The banks
and their saving are the spec's own decision (D27; log 13); that T and the loaded value are the `Handler`'s at the command's
start is the model's choice (log 31). -/
def Obligations.ACallbackCommandGivesTheHandlerBack : Prop :=
  ∀ (s : State) (w : CommandWord) (rest : List Input) (g : Reference),
    s.inputs = .present w :: rest → s.lat.calling = some g →
    ∃ u, step s = .next u
      ∧ u.lat = { s.lat with
          op := w.extractLsb' 40 8, a := w.extractLsb' 32 8, b := w.extractLsb' 0 32, ustep := 1, calling := none }
      ∧ u.bank.saved = s.lat :: s.bank.saved ∧ u.bank.res = s.bank.res
      ∧ SameIrqController s u ∧ SameTimer s u ∧ u.cb = s.cb ∧ SameMasks s u ∧ SameContext s u
      ∧ u.tickPending = s.tickPending ∧ u.cfg = s.cfg ∧ u.draws = s.draws ∧ u.history = s.history ∧ u.inputs = rest
      ∧ ∀ (i : Instr) (v t : State) (code : ResultCode), v.ctx = u.ctx → v.bank.saved = u.bank.saved →
          (exec i v = .next t ∨ v.reservedOpcode = .next t) → t.history = .result v.ctx v.lat.op code :: v.history →
          t.lat = s.lat ∧ t.bank.saved = s.bank.saved ∧ t.ctx = s.ctx ∧ t.bank.res = code
            ∧ OnlyEnded v code t

/-- R181: `Start` sets ENABLE and, by its read of TCTRL, clears COUNTFLAG; TRELOAD, TCURRENT, TICKINT, CLKSRC and everything
else is unchanged. That the read clears COUNTFLAG is log 20 (D21). -/
def Obligations.StartSetsOnlyEnable : Prop :=
  ∀ s : State, s.cfg.wellFormed = true → s.AtStep 1 →
    ∃ s1 s2 t, exec .start s = .next s1 ∧ exec .start s1 = .next s2 ∧ exec .start s2 = .next t
      ∧ t.enable = true ∧ t.countFlag = false
      ∧ t.tickInt = s.tickInt ∧ t.clkSrc = s.clkSrc ∧ t.treload = s.treload ∧ t.tcurrent = s.tcurrent
      ∧ SameIrqController s t ∧ t.cb = s.cb ∧ SameMasks s t ∧ SameOutside s t ∧ CommandEnded s .ok t
      ∧ t.history = endEvents s .ok ++ .write s.ctx .tctrl (s.regValue .tctrl ||| 1#32 <<< s.cfg.tctrlEnableBit.val)
          :: .read s.ctx .tctrl (s.regValue .tctrl) :: s.history

/-- R182: `Stop` clears ENABLE and, by its read of TCTRL, COUNTFLAG; TRELOAD, TCURRENT, TICKINT, CLKSRC, TICK_PENDING and
everything else is unchanged. That the read clears COUNTFLAG is log 20 (D21). -/
def Obligations.StopClearsOnlyEnable : Prop :=
  ∀ s : State, s.cfg.wellFormed = true → s.AtStep 1 →
    ∃ s1 s2 t, exec .stop s = .next s1 ∧ exec .stop s1 = .next s2 ∧ exec .stop s2 = .next t
      ∧ t.enable = false ∧ t.countFlag = false
      ∧ t.tickInt = s.tickInt ∧ t.clkSrc = s.clkSrc ∧ t.treload = s.treload ∧ t.tcurrent = s.tcurrent
      ∧ SameIrqController s t ∧ t.cb = s.cb ∧ SameMasks s t ∧ SameOutside s t ∧ CommandEnded s .ok t
      ∧ t.history = endEvents s .ok ++ .write s.ctx .tctrl (s.regValue .tctrl &&& ~~~(1#32 <<< s.cfg.tctrlEnableBit.val))
          :: .read s.ctx .tctrl (s.regValue .tctrl) :: s.history

/-- R183, R242: `DeInit` leaves the mode bits, COUNTFLAG, TRELOAD and TCURRENT 0 and CB `none`; IEN, priorities, SHC, masks,
TICK_PENDING and everything else is unchanged. That a write of TCURRENT clears COUNTFLAG is log 20 (D38). -/
def Obligations.DeInitZeroesTheTimerAndTheSlot : Prop :=
  ∀ s : State, s.AtStep 1 →
    ∃ s1 s2 s3 s4 t, exec .deInit s = .next s1 ∧ exec .deInit s1 = .next s2 ∧ exec .deInit s2 = .next s3
      ∧ exec .deInit s3 = .next s4 ∧ exec .deInit s4 = .next t
      ∧ t.enable = false ∧ t.tickInt = false ∧ t.clkSrc = false ∧ t.countFlag = false ∧ t.treload = 0
      ∧ t.tcurrent = 0 ∧ t.cb = none
      ∧ SameIrqController s t ∧ SameMasks s t ∧ SameOutside s t ∧ CommandEnded s .ok t
      ∧ t.history = endEvents s .ok ++ .cbStore s.ctx none :: .write s.ctx .tcurrent 0 :: .write s.ctx .treload 0
          :: .write s.ctx .tctrl 0 :: s.history

/-! ## Frames that hold at every micro-step, whatever stepped in between -/

/-- R66, R120, R122, R124: beyond the bank of its own context, that context's return and the history, no micro-step of an IRQ
operation, whatever T holds, changes anything but: for enable and disable, bits of the one word of IEN that holds `id`, set by
enable and cleared by disable; for priority, the one register of `id`. The bank of the other context is as it was (R22, R23),
and in the normal context so are CTX and HANDLER_ACTIVE. A micro-step that does not end the command keeps OP, A, B, the
`Handler`s waiting below, RES and the context (R21, R23, R28), and T but for the word it reads (R22). That enable never clears
and disable never sets a bit, whatever T holds, rests on the write-one behaviour of EN and DIS (R31, R32), general knowledge
in the spec (D10; log 20). -/
def Obligations.IrqOperationFrame : Prop :=
  ∀ (i : Instr) (id : Byte) (priority : Word) (s t : State), exec i s = .next t →
    i = .enableIRQ id ∨ i = .disableIRQ id ∨ i = .setPriorityIRQ id priority →
    (∀ j, j / 32 ≠ id.toNat / 32 → t.ien.getLsbD j = s.ien.getLsbD j)
      ∧ (i = .enableIRQ id → ∀ j, s.ien.getLsbD j = true → t.ien.getLsbD j = true)
      ∧ (i = .disableIRQ id → ∀ j, t.ien.getLsbD j = true → s.ien.getLsbD j = true)
      ∧ (i = .setPriorityIRQ id priority → t.ien = s.ien)
      ∧ (∀ r : Fin 35, r.val ≠ id.toNat / 4 → t.pri.get r = s.pri.get r)
      ∧ (i ≠ .setPriorityIRQ id priority → t.pri = s.pri)
      ∧ SameSystemRegisters s t ∧ SameTimer s t ∧ t.cb = s.cb ∧ SameMasks s t ∧ SameOutside s t
      ∧ t.bankOf s.ctx.other = s.bankOf s.ctx.other
      ∧ (s.ctx = .normal → t.ctx = .normal ∧ t.handlerActive = s.handlerActive)
      ∧ (s.canAccept = false → NotEnded s t → SameCommand s t ∧ TKeptOrRead s t)

/-- R140, R141, R155: no micro-step of an exception operation touches IEN, a priority register of an interrupt line, the
timer, CB or TICK_PENDING; enable and disable leave the system priority registers alone and change SHC for the kinds 3, 4 and
5 only; `SetPriorityException` leaves SHC and the masks alone and changes SYSPRI1 for the kinds 3, 4 and 5 only, SYSPRI2 for
the kind 6 only, and SYSPRI3 for the kinds 7, 8 and 9 only (R98). The bank of the other context is as it was (R22, R23), and
in the normal context so are CTX and HANDLER_ACTIVE. A micro-step that does not end the command keeps OP, A, B, the `Handler`s
waiting below, RES and the context (R21, R23, R28), and T but for the word it reads (R22). -/
def Obligations.ExceptionOperationFrame : Prop :=
  ∀ (i : Instr) (kind : Byte) (priority : Word) (s t : State), exec i s = .next t →
    i = .enableException kind ∨ i = .disableException kind ∨ i = .setPriorityException kind priority →
    t.ien = s.ien ∧ SamePriorities s t ∧ SameTimer s t ∧ t.cb = s.cb ∧ SameOutside s t
      ∧ (i ≠ .setPriorityException kind priority →
          t.syspri1 = s.syspri1 ∧ t.syspri2 = s.syspri2 ∧ t.syspri3 = s.syspri3
            ∧ (t.shc ≠ s.shc → kind.toNat ∈ [3, 4, 5]))
      ∧ (i = .setPriorityException kind priority → t.shc = s.shc ∧ SameMasks s t
            ∧ (t.syspri1 ≠ s.syspri1 → kind.toNat ∈ [3, 4, 5])
            ∧ (t.syspri2 ≠ s.syspri2 → kind.toNat = 6)
            ∧ (t.syspri3 ≠ s.syspri3 → kind.toNat ∈ [7, 8, 9]))
      ∧ t.bankOf s.ctx.other = s.bankOf s.ctx.other
      ∧ (s.ctx = .normal → t.ctx = .normal ∧ t.handlerActive = s.handlerActive)
      ∧ (s.canAccept = false → NotEnded s t → SameCommand s t ∧ TKeptOrRead s t)

/-- R43, R46, R170 to R183: no micro-step of a timer-driver operation touches the interrupt controller's registers, the masks
or TICK_PENDING; `SetCallBack` and `Handler` leave the timer alone, and every one but `SetCallBack` and `DeInit` leaves CB
alone. The bank of the other context is as it was (R22, R23), and in the normal context so are CTX and HANDLER_ACTIVE. A
micro-step that does not end the command keeps OP, A, B, the `Handler`s waiting below, RES and the context (R21, R23, R28),
and T but for the word it reads (R22). -/
def Obligations.TimerOperationFrame : Prop :=
  ∀ (i : Instr) (s t : State), exec i s = .next t → 7 ≤ i.opcode.toNat →
    SameIrqController s t ∧ SameMasks s t ∧ SameOutside s t
      ∧ ((i = .handler ∨ ∃ fn, i = .setCallBack fn) → SameTimer s t)
      ∧ (i ≠ .deInit → (∀ fn, i ≠ .setCallBack fn) → t.cb = s.cb)
      ∧ t.bankOf s.ctx.other = s.bankOf s.ctx.other
      ∧ (s.ctx = .normal → t.ctx = .normal ∧ t.handlerActive = s.handlerActive)
      ∧ (s.canAccept = false → NotEnded s t → SameCommand s t ∧ TKeptOrRead s t)

/-- R49, R50: IMASK is written only by enabling or disabling ALL_INTERRUPTS, FMASK only by enabling or disabling HARD_FAULT. -/
def Obligations.OnlyTwoKindsWriteTheMasks : Prop :=
  ∀ (i : Instr) (s t : State), exec i s = .next t →
    (t.imask ≠ s.imask → i = .enableException 10 ∨ i = .disableException 10)
      ∧ (t.fmask ≠ s.fmask → i = .enableException 2 ∨ i = .disableException 2)

/-- R202: the codes each operation, and a reserved opcode, can end with. The codes are the spec's own decision (D5). -/
def Obligations.ResultCodesOfEachOperation : Prop :=
  ∀ (i : Instr) (s t : State) (code : ResultCode) (tail : List Event), s.canAccept = false →
    t.history = tail ++ .result s.ctx s.lat.op code :: s.history →
    (s.reservedOpcode = .next t → code = .errOpcode)
    ∧ (exec i s = .next t →
    (i.opcode.toNat ∈ [1, 2] → code ∈ [.ok, .errId])
      ∧ (i.opcode.toNat = 3 → code ∈ [.ok, .errId, .prioRange])
      ∧ (i.opcode.toNat ∈ [4, 5] → code ∈ [.ok, .errId, .nopUnsupported])
      ∧ (i.opcode.toNat = 6 → code ∈ [.ok, .errId, .nopUnsupported, .prioRange])
      ∧ (i.opcode.toNat ∈ [7, 8, 9, 11, 12, 13] → code = .ok)
      ∧ (i.opcode.toNat = 10 → code ∈ [.ok, .nopNoCallback]))

/-- R250, R22: for every operation R250 lists, between its read and its write: whatever register the other context has
written, the write micro-step stores `f(T)`, computed from the stale T alone, so that the other context's write of the same
register is lost (it leaves what it would have left without that write); for `EnableIRQ`, a bit the other context cleared
comes back where `f(T)` has it, and for `DisableIRQ`, a bit it set is cleared again where `f(T)` has it. The write-one
behaviour of EN and DIS is log 20 (D10). -/
def Obligations.AStaleLatchOverwritesTheOtherContext : Prop :=
  ∀ (s : State) (i : Instr) (k : Nat) (sel other : Selector) (f : Word → Word) (v : Word),
    ReadModifyWrite s.cfg i k sel f → s.AtStep k →
    ∃ t u, exec i s = .next t ∧ exec i (s.regWrite other v) = .next u
      ∧ t.history = .write s.ctx sel (f s.lat.t) :: s.history
      ∧ u.history = .write s.ctx sel (f s.lat.t) :: s.history
      ∧ (other = sel → (∀ q, sel ≠ .en q) → (∀ q, sel ≠ .dis q) → u.regValue sel = t.regValue sel)
      ∧ (∀ r, sel = .pri r → u.regValue sel = lowLaneBits s.cfg (f s.lat.t))
      ∧ (sel ∈ [.shc, .syspri1, .syspri2, .syspri3] → u.regValue sel = f s.lat.t)
      ∧ (sel = .tctrl → u.enable = (f s.lat.t).getLsbD s.cfg.tctrlEnableBit.val
          ∧ u.tickInt = (f s.lat.t).getLsbD s.cfg.tctrlTickIntBit.val
          ∧ u.clkSrc = (f s.lat.t).getLsbD s.cfg.tctrlClkSrcBit.val)
      ∧ (∀ q : Fin 5, sel = .en q → ∀ j, j < 32 → (f s.lat.t).getLsbD j = true → u.ien.getLsbD (32 * q.val + j) = true)
      ∧ (∀ q : Fin 5, sel = .dis q → ∀ j, j < 32 → (f s.lat.t).getLsbD j = true → u.ien.getLsbD (32 * q.val + j) = false)

/-! ## The timer and its interrupt (60_exceptions.md) -/

/-- R218: the tick, in the three cases of the rule; no other state changes, and of the model's own fields the input is used up
and the event recorded. The exact rule is general knowledge in the spec (D20; log 20). That a tick where ENABLE is 0 only uses
its input up is the model's choice (log 3). -/
def Obligations.TheTickRule : Prop :=
  ∀ (s : State) (rest : List Input), s.inputs = .tick :: rest →
    ∃ t, step s = .next t
      ∧ (s.enable = false → t = { s with inputs := rest })
      ∧ (s.enable = true → s.tcurrent = 0 →
          t.tcurrent = s.treload ∧ t.countFlag = s.countFlag ∧ t.tickPending = s.tickPending)
      ∧ (s.enable = true → s.tcurrent ≠ 0 →
          t.tcurrent = s.tcurrent - 1
            ∧ t.countFlag = (if s.tcurrent - 1 = 0 then true else s.countFlag)
            ∧ t.tickPending = (if s.tcurrent - 1 = 0 ∧ s.tickInt = true then true else s.tickPending))
      ∧ t.treload = s.treload ∧ t.enable = s.enable ∧ t.tickInt = s.tickInt ∧ t.clkSrc = s.clkSrc
      ∧ SameIrqController s t ∧ t.cb = s.cb ∧ SameMasks s t ∧ SameContext s t ∧ t.bank = s.bank
      ∧ t.cfg = s.cfg ∧ t.draws = s.draws ∧ t.inputs = rest
      ∧ t.history = (if s.enable = true then .tick :: s.history else s.history)

/-- R218, R261: "a reload value of N counts N+1 ticks": an enabled timer that starts from TCURRENT 0 with COUNTFLAG 0 and
reload N >= 1 shows N - k + 1 after k ticks for 1 <= k <= N with COUNTFLAG 0, and at tick N + 1 reaches 0, raises COUNTFLAG
and, with TICKINT 1, TICK_PENDING. Rests on the tick rule (D20; log 20). -/
def Obligations.AReloadOfNCountsNPlusOneTicks : Prop :=
  ∀ (s : State) (k : Nat), s.enable = true → s.tcurrent = 0 → s.countFlag = false → s.treload ≠ 0 →
    (1 ≤ k → k ≤ s.treload.toNat →
      (s.ticks k).tcurrent.toNat = s.treload.toNat - k + 1 ∧ (s.ticks k).countFlag = false
        ∧ (s.ticks k).tickPending = s.tickPending)
      ∧ ((s.ticks (s.treload.toNat + 1)).tcurrent = 0 ∧ (s.ticks (s.treload.toNat + 1)).countFlag = true
        ∧ (s.ticks (s.treload.toNat + 1)).tickPending = (s.tickPending || s.tickInt))

/-- R210, R211, R214: where the dispatch step is enabled it clears TICK_PENDING, sets HANDLER_ACTIVE and CTX, and bank I
accepts `Handler`; bank N, every register, CB and the masks are as they were. Where any one condition fails, in particular
while a handler is active or a mask is set, it does not happen and TICK_PENDING keeps what it holds. That the masks block
dispatch is general knowledge in the spec (D28; log 20); that a dispatch which is not enabled has no effect is the model's
choice (log 3). -/
def Obligations.DispatchEntersTheHandlerExactlyWhenEnabled : Prop :=
  ∀ (s : State) (rest : List Input), s.inputs = .dispatch :: rest →
    (s.tickPending = true → s.imask = false → s.fmask = false → s.handlerActive = false → s.ctx = .normal →
      ∃ t, step s = .next t
        ∧ t.tickPending = false ∧ t.handlerActive = true ∧ t.ctx = .interrupt
        ∧ t.bankN = s.bankN
        ∧ t.bankI.cur.op = 0x0A ∧ t.bankI.cur.a = 0 ∧ t.bankI.cur.b = 0 ∧ t.bankI.cur.ustep = 1
        ∧ t.bankI.cur.calling = none
        ∧ SameIrqController s t ∧ SameTimer s t ∧ t.cb = s.cb ∧ SameMasks s t
        ∧ t.history = .dispatch :: s.history ∧ t.inputs = rest)
      ∧ ((s.tickPending = false ∨ s.imask = true ∨ s.fmask = true ∨ s.handlerActive = true ∨ s.ctx = .interrupt) →
          step s = .next { s with inputs := rest })

/-- R212, R213, R211, R23: while the interrupt context runs, every step but the reset event leaves bank N as it was, whatever
the callback's commands do; and a `Handler` with an empty slot that preempts the normal context returns to it with bank N,
every register and the masks as they were: the preempted command resumes at its next micro-step. The banks are the spec's own
decision (D27). -/
def Obligations.PreemptionLeavesTheNormalBankAlone : Prop :=
  (∀ s t : State, s.ctx = .interrupt → (∀ rest, s.inputs ≠ .reset :: rest) → step s = .next t → t.bankN = s.bankN)
    ∧ ∀ (s : State), s.dispatchEnabled = true → s.bankI.cur.Idle → s.bankI.saved = [] → s.cb = none →
      ∃ t, core.run 3 { s with inputs := [.dispatch, .micro, .micro] } = .next t
        ∧ t.bankN = s.bankN ∧ t.ctx = .normal ∧ t.handlerActive = false ∧ t.tickPending = false
        ∧ t.bankI.cur.Idle ∧ t.bankI.res = .nopNoCallback
        ∧ SameIrqController s t ∧ SameTimer s t ∧ t.cb = s.cb ∧ SameMasks s t

/-! ## Reset (10_state.md R52, 70_reset_and_hazards.md R240, R241) -/

/-- R52, R241: what reset leaves; both banks are idle, with no `Handler` saved below. The value of a register the rule calls
unspecified is not stated: it is free (log 8). The values are the spec's own decision (D26), those of the registers its
premise BANK_AT_RESET (log 10). -/
def Obligations.ResetLeavesTheListedValues : Prop :=
  State.reset.ien = 0 ∧ (∀ r : Fin 35, State.reset.pri.get r = 0) ∧ State.reset.shc = 0 ∧ State.reset.syspri1 = 0
    ∧ State.reset.syspri2 = 0 ∧ State.reset.syspri3 = 0
    ∧ State.reset.enable = false ∧ State.reset.tickInt = false ∧ State.reset.countFlag = false
    ∧ State.reset.cb = none ∧ State.reset.tickPending = false ∧ State.reset.handlerActive = false
    ∧ State.reset.imask = false ∧ State.reset.fmask = false ∧ State.reset.ctx = .normal
    ∧ State.reset.bankN.cur.Idle ∧ State.reset.bankI.cur.Idle
    ∧ State.reset.bankN.saved = [] ∧ State.reset.bankI.saved = []
    ∧ State.reset.bankN.res = .ok ∧ State.reset.bankI.res = .ok

/-- R240, R52: the reset event puts the state there from every state, in one step, and empties both banks; the configuration
is not the block's and stays. The event and its values are the spec's own decision (D26; log 10, log 25). -/
def Obligations.TheResetEventRestoresTheResetValues : Prop :=
  ∀ (s : State) (rest : List Input), s.inputs = .reset :: rest →
    ∃ t, step s = .next t ∧ t.cfg = s.cfg ∧ t.inputs = rest
      ∧ t.ien = 0 ∧ (∀ r : Fin 35, t.pri.get r = 0) ∧ t.shc = 0 ∧ t.syspri1 = 0 ∧ t.syspri2 = 0 ∧ t.syspri3 = 0
      ∧ t.enable = false ∧ t.tickInt = false ∧ t.countFlag = false ∧ t.cb = none ∧ t.tickPending = false
      ∧ t.handlerActive = false ∧ t.imask = false ∧ t.fmask = false ∧ t.ctx = .normal
      ∧ t.bankN.cur.Idle ∧ t.bankI.cur.Idle ∧ t.bankN.saved = [] ∧ t.bankI.saved = []
      ∧ t.bankN.res = .ok ∧ t.bankI.res = .ok

/-! ## The whole machine -/

/-- R52, R240, R24: the invariant holds at reset. It rests on what reset leaves: the spec's own decision (D26) and its premise
BANK_AT_RESET for the registers (log 10), the default and open parameters (log 5, log 6), and the latches at 0 and none (log
9). -/
def Obligations.TheInvariantHoldsAtReset : Prop := State.reset.Inv

/-- R24, R26, R41, R42, R47, R48: every step from a state that meets the invariant gives one that meets it, whatever the
agents do. What the invariant says is in Sys2Proof/Safety.lean; the list of inputs is the model's (log 2). -/
def Obligations.EveryStepKeepsTheInvariant : Prop :=
  ∀ s t : State, s.Inv → step s = .next t → t.Inv

/-- R200, R60: no step of a state that meets the invariant stops, unless its next input is one the spec has a model refuse
(R216, R80, R226). The refusals are the model's form of U8, U9 and U10 (log 16 to 18). -/
def Obligations.NoAdmittedStepStops : Prop :=
  ∀ s : State, s.Inv → (∀ x rest, s.inputs = x :: rest → InputAdmitted x = true) → ∃ t, step s = .next t

/-- The whole machine: from every state that meets the invariant, every run of every length over admitted inputs goes on,
keeps the invariant and the configuration. The list of inputs is the model's (log 2), the refusals are log 16 to 18. -/
def Obligations.AdmittedRunsNeverStop : Prop :=
  ∀ (n : Nat) (s : State), s.Inv → (∀ x ∈ s.inputs, InputAdmitted x = true) →
    ∃ t, core.run n s = .next t ∧ t.Inv ∧ t.cfg = s.cfg ∧ ∀ x ∈ t.inputs, InputAdmitted x = true

/-- R216, R80, R226 (U8, U10, U9): the three inputs the spec tells a model to refuse are refused, each by its name. Log 16 to
18. -/
def Obligations.TheThreeOutsideInputsAreRefused : Prop :=
  ∀ (s : State) (w : CommandWord) (sel : Selector) (v : Word) (rest : List Input),
    (s.inputs = .unprivileged w :: rest → step s = .refused .unprivilegedIssuer)
      ∧ (s.inputs = .otherMaster sel v :: rest → step s = .refused .otherBusMaster)
      ∧ (s.inputs = .svcHandler w :: rest → step s = .refused .svcHandlerCommand)
end

