-- ==== Sys2Proof/Laws/State.lean ====
section
/-! SUPPORT. One lemma per field for each shared update of the state, each true by unfolding that update once. -/

namespace Sys2Proof.Machine

/-! `setBank`: the two banks only. -/

@[simp] theorem setBank_cfg (b : Bank) (s : State) : (s.setBank b).cfg = s.cfg := rfl
@[simp] theorem setBank_ien (b : Bank) (s : State) : (s.setBank b).ien = s.ien := rfl
@[simp] theorem setBank_pri (b : Bank) (s : State) : (s.setBank b).pri = s.pri := rfl
@[simp] theorem setBank_shc (b : Bank) (s : State) : (s.setBank b).shc = s.shc := rfl
@[simp] theorem setBank_syspri1 (b : Bank) (s : State) : (s.setBank b).syspri1 = s.syspri1 := rfl
@[simp] theorem setBank_syspri2 (b : Bank) (s : State) : (s.setBank b).syspri2 = s.syspri2 := rfl
@[simp] theorem setBank_syspri3 (b : Bank) (s : State) : (s.setBank b).syspri3 = s.syspri3 := rfl
@[simp] theorem setBank_enable (b : Bank) (s : State) : (s.setBank b).enable = s.enable := rfl
@[simp] theorem setBank_tickInt (b : Bank) (s : State) : (s.setBank b).tickInt = s.tickInt := rfl
@[simp] theorem setBank_clkSrc (b : Bank) (s : State) : (s.setBank b).clkSrc = s.clkSrc := rfl
@[simp] theorem setBank_countFlag (b : Bank) (s : State) : (s.setBank b).countFlag = s.countFlag := rfl
@[simp] theorem setBank_treload (b : Bank) (s : State) : (s.setBank b).treload = s.treload := rfl
@[simp] theorem setBank_tcurrent (b : Bank) (s : State) : (s.setBank b).tcurrent = s.tcurrent := rfl
@[simp] theorem setBank_cb (b : Bank) (s : State) : (s.setBank b).cb = s.cb := rfl
@[simp] theorem setBank_tickPending (b : Bank) (s : State) : (s.setBank b).tickPending = s.tickPending := rfl
@[simp] theorem setBank_handlerActive (b : Bank) (s : State) : (s.setBank b).handlerActive = s.handlerActive := rfl
@[simp] theorem setBank_imask (b : Bank) (s : State) : (s.setBank b).imask = s.imask := rfl
@[simp] theorem setBank_fmask (b : Bank) (s : State) : (s.setBank b).fmask = s.fmask := rfl
@[simp] theorem setBank_ctx (b : Bank) (s : State) : (s.setBank b).ctx = s.ctx := rfl
@[simp] theorem setBank_inputs (b : Bank) (s : State) : (s.setBank b).inputs = s.inputs := rfl
@[simp] theorem setBank_history (b : Bank) (s : State) : (s.setBank b).history = s.history := rfl
@[simp] theorem setBank_draws (b : Bank) (s : State) : (s.setBank b).draws = s.draws := rfl
@[simp] theorem setBank_bank (b : Bank) (s : State) : (s.setBank b).bank = b := by
  cases h : s.ctx <;> simp [State.setBank, State.bank, h]
@[simp] theorem setBank_setBank (b c : Bank) (s : State) : (s.setBank b).setBank c = s.setBank c := by
  cases h : s.ctx <;> simp [State.setBank, h]
@[simp] theorem setBank_self (s : State) : s.setBank s.bank = s := by
  cases h : s.ctx <;> simp [State.setBank, State.bank, h] <;> rw [← h]
@[simp] theorem setBank_lat (b : Bank) (s : State) : (s.setBank b).lat = b.cur := by
  simp [State.lat]

/-! `setLat`: the current bank's latches only. -/

@[simp] theorem setLat_cfg (l : Latches) (s : State) : (s.setLat l).cfg = s.cfg := rfl
@[simp] theorem setLat_ien (l : Latches) (s : State) : (s.setLat l).ien = s.ien := rfl
@[simp] theorem setLat_pri (l : Latches) (s : State) : (s.setLat l).pri = s.pri := rfl
@[simp] theorem setLat_shc (l : Latches) (s : State) : (s.setLat l).shc = s.shc := rfl
@[simp] theorem setLat_syspri1 (l : Latches) (s : State) : (s.setLat l).syspri1 = s.syspri1 := rfl
@[simp] theorem setLat_syspri2 (l : Latches) (s : State) : (s.setLat l).syspri2 = s.syspri2 := rfl
@[simp] theorem setLat_syspri3 (l : Latches) (s : State) : (s.setLat l).syspri3 = s.syspri3 := rfl
@[simp] theorem setLat_enable (l : Latches) (s : State) : (s.setLat l).enable = s.enable := rfl
@[simp] theorem setLat_tickInt (l : Latches) (s : State) : (s.setLat l).tickInt = s.tickInt := rfl
@[simp] theorem setLat_clkSrc (l : Latches) (s : State) : (s.setLat l).clkSrc = s.clkSrc := rfl
@[simp] theorem setLat_countFlag (l : Latches) (s : State) : (s.setLat l).countFlag = s.countFlag := rfl
@[simp] theorem setLat_treload (l : Latches) (s : State) : (s.setLat l).treload = s.treload := rfl
@[simp] theorem setLat_tcurrent (l : Latches) (s : State) : (s.setLat l).tcurrent = s.tcurrent := rfl
@[simp] theorem setLat_cb (l : Latches) (s : State) : (s.setLat l).cb = s.cb := rfl
@[simp] theorem setLat_tickPending (l : Latches) (s : State) : (s.setLat l).tickPending = s.tickPending := rfl
@[simp] theorem setLat_handlerActive (l : Latches) (s : State) : (s.setLat l).handlerActive = s.handlerActive := rfl
@[simp] theorem setLat_imask (l : Latches) (s : State) : (s.setLat l).imask = s.imask := rfl
@[simp] theorem setLat_fmask (l : Latches) (s : State) : (s.setLat l).fmask = s.fmask := rfl
@[simp] theorem setLat_ctx (l : Latches) (s : State) : (s.setLat l).ctx = s.ctx := rfl
@[simp] theorem setLat_inputs (l : Latches) (s : State) : (s.setLat l).inputs = s.inputs := rfl
@[simp] theorem setLat_history (l : Latches) (s : State) : (s.setLat l).history = s.history := rfl
@[simp] theorem setLat_draws (l : Latches) (s : State) : (s.setLat l).draws = s.draws := rfl
@[simp] theorem setLat_bank (l : Latches) (s : State) :
    (s.setLat l).bank = { s.bank with cur := l } := by
  simp [State.setLat]
@[simp] theorem setLat_lat (l : Latches) (s : State) : (s.setLat l).lat = l := by
  simp [State.setLat]
@[simp] theorem bank_cur (s : State) : s.bank.cur = s.lat := rfl

/-! `record`: the history only. -/

@[simp] theorem record_cfg (e : Event) (s : State) : (s.record e).cfg = s.cfg := rfl
@[simp] theorem record_ien (e : Event) (s : State) : (s.record e).ien = s.ien := rfl
@[simp] theorem record_pri (e : Event) (s : State) : (s.record e).pri = s.pri := rfl
@[simp] theorem record_shc (e : Event) (s : State) : (s.record e).shc = s.shc := rfl
@[simp] theorem record_syspri1 (e : Event) (s : State) : (s.record e).syspri1 = s.syspri1 := rfl
@[simp] theorem record_syspri2 (e : Event) (s : State) : (s.record e).syspri2 = s.syspri2 := rfl
@[simp] theorem record_syspri3 (e : Event) (s : State) : (s.record e).syspri3 = s.syspri3 := rfl
@[simp] theorem record_enable (e : Event) (s : State) : (s.record e).enable = s.enable := rfl
@[simp] theorem record_tickInt (e : Event) (s : State) : (s.record e).tickInt = s.tickInt := rfl
@[simp] theorem record_clkSrc (e : Event) (s : State) : (s.record e).clkSrc = s.clkSrc := rfl
@[simp] theorem record_countFlag (e : Event) (s : State) : (s.record e).countFlag = s.countFlag := rfl
@[simp] theorem record_treload (e : Event) (s : State) : (s.record e).treload = s.treload := rfl
@[simp] theorem record_tcurrent (e : Event) (s : State) : (s.record e).tcurrent = s.tcurrent := rfl
@[simp] theorem record_cb (e : Event) (s : State) : (s.record e).cb = s.cb := rfl
@[simp] theorem record_tickPending (e : Event) (s : State) : (s.record e).tickPending = s.tickPending := rfl
@[simp] theorem record_handlerActive (e : Event) (s : State) : (s.record e).handlerActive = s.handlerActive := rfl
@[simp] theorem record_imask (e : Event) (s : State) : (s.record e).imask = s.imask := rfl
@[simp] theorem record_fmask (e : Event) (s : State) : (s.record e).fmask = s.fmask := rfl
@[simp] theorem record_ctx (e : Event) (s : State) : (s.record e).ctx = s.ctx := rfl
@[simp] theorem record_bankN (e : Event) (s : State) : (s.record e).bankN = s.bankN := rfl
@[simp] theorem record_bankI (e : Event) (s : State) : (s.record e).bankI = s.bankI := rfl
@[simp] theorem record_inputs (e : Event) (s : State) : (s.record e).inputs = s.inputs := rfl
@[simp] theorem record_draws (e : Event) (s : State) : (s.record e).draws = s.draws := rfl
@[simp] theorem record_history (e : Event) (s : State) : (s.record e).history = e :: s.history := rfl
@[simp] theorem record_bank (e : Event) (s : State) : (s.record e).bank = s.bank := rfl
@[simp] theorem record_lat (e : Event) (s : State) : (s.record e).lat = s.lat := rfl

/-! `advance`: USTEP only. -/

@[simp] theorem advance_cfg (s : State) : (s.advance).cfg = s.cfg := rfl
@[simp] theorem advance_ien (s : State) : (s.advance).ien = s.ien := rfl
@[simp] theorem advance_pri (s : State) : (s.advance).pri = s.pri := rfl
@[simp] theorem advance_shc (s : State) : (s.advance).shc = s.shc := rfl
@[simp] theorem advance_syspri1 (s : State) : (s.advance).syspri1 = s.syspri1 := rfl
@[simp] theorem advance_syspri2 (s : State) : (s.advance).syspri2 = s.syspri2 := rfl
@[simp] theorem advance_syspri3 (s : State) : (s.advance).syspri3 = s.syspri3 := rfl
@[simp] theorem advance_enable (s : State) : (s.advance).enable = s.enable := rfl
@[simp] theorem advance_tickInt (s : State) : (s.advance).tickInt = s.tickInt := rfl
@[simp] theorem advance_clkSrc (s : State) : (s.advance).clkSrc = s.clkSrc := rfl
@[simp] theorem advance_countFlag (s : State) : (s.advance).countFlag = s.countFlag := rfl
@[simp] theorem advance_treload (s : State) : (s.advance).treload = s.treload := rfl
@[simp] theorem advance_tcurrent (s : State) : (s.advance).tcurrent = s.tcurrent := rfl
@[simp] theorem advance_cb (s : State) : (s.advance).cb = s.cb := rfl
@[simp] theorem advance_tickPending (s : State) : (s.advance).tickPending = s.tickPending := rfl
@[simp] theorem advance_handlerActive (s : State) : (s.advance).handlerActive = s.handlerActive := rfl
@[simp] theorem advance_imask (s : State) : (s.advance).imask = s.imask := rfl
@[simp] theorem advance_fmask (s : State) : (s.advance).fmask = s.fmask := rfl
@[simp] theorem advance_ctx (s : State) : (s.advance).ctx = s.ctx := rfl
@[simp] theorem advance_inputs (s : State) : (s.advance).inputs = s.inputs := rfl
@[simp] theorem advance_history (s : State) : (s.advance).history = s.history := rfl
@[simp] theorem advance_draws (s : State) : (s.advance).draws = s.draws := rfl
@[simp] theorem advance_bank (s : State) :
    s.advance.bank = { s.bank with cur := { s.lat with ustep := s.lat.ustep + 1 } } := by
  simp [State.advance]
@[simp] theorem advance_lat (s : State) : s.advance.lat = { s.lat with ustep := s.lat.ustep + 1 } := by
  simp [State.advance]

/-! `withInputs`: the inputs only. -/

@[simp] theorem withInputs_cfg (x : List Input) (s : State) : (s.withInputs x).cfg = s.cfg := rfl
@[simp] theorem withInputs_ien (x : List Input) (s : State) : (s.withInputs x).ien = s.ien := rfl
@[simp] theorem withInputs_pri (x : List Input) (s : State) : (s.withInputs x).pri = s.pri := rfl
@[simp] theorem withInputs_shc (x : List Input) (s : State) : (s.withInputs x).shc = s.shc := rfl
@[simp] theorem withInputs_syspri1 (x : List Input) (s : State) : (s.withInputs x).syspri1 = s.syspri1 := rfl
@[simp] theorem withInputs_syspri2 (x : List Input) (s : State) : (s.withInputs x).syspri2 = s.syspri2 := rfl
@[simp] theorem withInputs_syspri3 (x : List Input) (s : State) : (s.withInputs x).syspri3 = s.syspri3 := rfl
@[simp] theorem withInputs_enable (x : List Input) (s : State) : (s.withInputs x).enable = s.enable := rfl
@[simp] theorem withInputs_tickInt (x : List Input) (s : State) : (s.withInputs x).tickInt = s.tickInt := rfl
@[simp] theorem withInputs_clkSrc (x : List Input) (s : State) : (s.withInputs x).clkSrc = s.clkSrc := rfl
@[simp] theorem withInputs_countFlag (x : List Input) (s : State) : (s.withInputs x).countFlag = s.countFlag := rfl
@[simp] theorem withInputs_treload (x : List Input) (s : State) : (s.withInputs x).treload = s.treload := rfl
@[simp] theorem withInputs_tcurrent (x : List Input) (s : State) : (s.withInputs x).tcurrent = s.tcurrent := rfl
@[simp] theorem withInputs_cb (x : List Input) (s : State) : (s.withInputs x).cb = s.cb := rfl
@[simp] theorem withInputs_tickPending (x : List Input) (s : State) : (s.withInputs x).tickPending = s.tickPending := rfl
@[simp] theorem withInputs_handlerActive (x : List Input) (s : State) : (s.withInputs x).handlerActive = s.handlerActive := rfl
@[simp] theorem withInputs_imask (x : List Input) (s : State) : (s.withInputs x).imask = s.imask := rfl
@[simp] theorem withInputs_fmask (x : List Input) (s : State) : (s.withInputs x).fmask = s.fmask := rfl
@[simp] theorem withInputs_ctx (x : List Input) (s : State) : (s.withInputs x).ctx = s.ctx := rfl
@[simp] theorem withInputs_bankN (x : List Input) (s : State) : (s.withInputs x).bankN = s.bankN := rfl
@[simp] theorem withInputs_bankI (x : List Input) (s : State) : (s.withInputs x).bankI = s.bankI := rfl
@[simp] theorem withInputs_history (x : List Input) (s : State) : (s.withInputs x).history = s.history := rfl
@[simp] theorem withInputs_draws (x : List Input) (s : State) : (s.withInputs x).draws = s.draws := rfl
@[simp] theorem withInputs_inputs (x : List Input) (s : State) : (s.withInputs x).inputs = x := rfl
@[simp] theorem withInputs_bank (x : List Input) (s : State) : (s.withInputs x).bank = s.bank := rfl
@[simp] theorem withInputs_lat (x : List Input) (s : State) : (s.withInputs x).lat = s.lat := rfl

/-! `accept`: the current bank only (30_encoding.md R91: acceptance touches no register). -/

@[simp] theorem accept_cfg (w : CommandWord) (s : State) : (s.accept w).cfg = s.cfg := rfl
@[simp] theorem accept_ien (w : CommandWord) (s : State) : (s.accept w).ien = s.ien := rfl
@[simp] theorem accept_pri (w : CommandWord) (s : State) : (s.accept w).pri = s.pri := rfl
@[simp] theorem accept_shc (w : CommandWord) (s : State) : (s.accept w).shc = s.shc := rfl
@[simp] theorem accept_syspri1 (w : CommandWord) (s : State) : (s.accept w).syspri1 = s.syspri1 := rfl
@[simp] theorem accept_syspri2 (w : CommandWord) (s : State) : (s.accept w).syspri2 = s.syspri2 := rfl
@[simp] theorem accept_syspri3 (w : CommandWord) (s : State) : (s.accept w).syspri3 = s.syspri3 := rfl
@[simp] theorem accept_enable (w : CommandWord) (s : State) : (s.accept w).enable = s.enable := rfl
@[simp] theorem accept_tickInt (w : CommandWord) (s : State) : (s.accept w).tickInt = s.tickInt := rfl
@[simp] theorem accept_clkSrc (w : CommandWord) (s : State) : (s.accept w).clkSrc = s.clkSrc := rfl
@[simp] theorem accept_countFlag (w : CommandWord) (s : State) : (s.accept w).countFlag = s.countFlag := rfl
@[simp] theorem accept_treload (w : CommandWord) (s : State) : (s.accept w).treload = s.treload := rfl
@[simp] theorem accept_tcurrent (w : CommandWord) (s : State) : (s.accept w).tcurrent = s.tcurrent := rfl
@[simp] theorem accept_cb (w : CommandWord) (s : State) : (s.accept w).cb = s.cb := rfl
@[simp] theorem accept_tickPending (w : CommandWord) (s : State) : (s.accept w).tickPending = s.tickPending := rfl
@[simp] theorem accept_handlerActive (w : CommandWord) (s : State) : (s.accept w).handlerActive = s.handlerActive := rfl
@[simp] theorem accept_imask (w : CommandWord) (s : State) : (s.accept w).imask = s.imask := rfl
@[simp] theorem accept_fmask (w : CommandWord) (s : State) : (s.accept w).fmask = s.fmask := rfl
@[simp] theorem accept_ctx (w : CommandWord) (s : State) : (s.accept w).ctx = s.ctx := rfl
@[simp] theorem accept_inputs (w : CommandWord) (s : State) : (s.accept w).inputs = s.inputs := rfl
@[simp] theorem accept_history (w : CommandWord) (s : State) : (s.accept w).history = s.history := rfl
@[simp] theorem accept_draws (w : CommandWord) (s : State) : (s.accept w).draws = s.draws := rfl
@[simp] theorem accept_bank (w : CommandWord) (s : State) : (s.accept w).bank = s.bank.accept w := by
  simp [State.accept]
@[simp] theorem accept_lat (w : CommandWord) (s : State) : (s.accept w).lat = s.lat.load w := by
  simp [State.accept, Bank.accept]

/-! `regReadEffect`: COUNTFLAG only (20_memory.md R68). -/

@[simp] theorem regReadEffect_cfg (sel : Selector) (s : State) : (s.regReadEffect sel).cfg = s.cfg := by cases sel <;> rfl
@[simp] theorem regReadEffect_ien (sel : Selector) (s : State) : (s.regReadEffect sel).ien = s.ien := by cases sel <;> rfl
@[simp] theorem regReadEffect_pri (sel : Selector) (s : State) : (s.regReadEffect sel).pri = s.pri := by cases sel <;> rfl
@[simp] theorem regReadEffect_shc (sel : Selector) (s : State) : (s.regReadEffect sel).shc = s.shc := by cases sel <;> rfl
@[simp] theorem regReadEffect_syspri1 (sel : Selector) (s : State) : (s.regReadEffect sel).syspri1 = s.syspri1 := by cases sel <;> rfl
@[simp] theorem regReadEffect_syspri2 (sel : Selector) (s : State) : (s.regReadEffect sel).syspri2 = s.syspri2 := by cases sel <;> rfl
@[simp] theorem regReadEffect_syspri3 (sel : Selector) (s : State) : (s.regReadEffect sel).syspri3 = s.syspri3 := by cases sel <;> rfl
@[simp] theorem regReadEffect_enable (sel : Selector) (s : State) : (s.regReadEffect sel).enable = s.enable := by cases sel <;> rfl
@[simp] theorem regReadEffect_tickInt (sel : Selector) (s : State) : (s.regReadEffect sel).tickInt = s.tickInt := by cases sel <;> rfl
@[simp] theorem regReadEffect_clkSrc (sel : Selector) (s : State) : (s.regReadEffect sel).clkSrc = s.clkSrc := by cases sel <;> rfl
@[simp] theorem regReadEffect_treload (sel : Selector) (s : State) : (s.regReadEffect sel).treload = s.treload := by cases sel <;> rfl
@[simp] theorem regReadEffect_tcurrent (sel : Selector) (s : State) : (s.regReadEffect sel).tcurrent = s.tcurrent := by cases sel <;> rfl
@[simp] theorem regReadEffect_cb (sel : Selector) (s : State) : (s.regReadEffect sel).cb = s.cb := by cases sel <;> rfl
@[simp] theorem regReadEffect_tickPending (sel : Selector) (s : State) : (s.regReadEffect sel).tickPending = s.tickPending := by cases sel <;> rfl
@[simp] theorem regReadEffect_handlerActive (sel : Selector) (s : State) : (s.regReadEffect sel).handlerActive = s.handlerActive := by cases sel <;> rfl
@[simp] theorem regReadEffect_imask (sel : Selector) (s : State) : (s.regReadEffect sel).imask = s.imask := by cases sel <;> rfl
@[simp] theorem regReadEffect_fmask (sel : Selector) (s : State) : (s.regReadEffect sel).fmask = s.fmask := by cases sel <;> rfl
@[simp] theorem regReadEffect_ctx (sel : Selector) (s : State) : (s.regReadEffect sel).ctx = s.ctx := by cases sel <;> rfl
@[simp] theorem regReadEffect_bankN (sel : Selector) (s : State) : (s.regReadEffect sel).bankN = s.bankN := by cases sel <;> rfl
@[simp] theorem regReadEffect_bankI (sel : Selector) (s : State) : (s.regReadEffect sel).bankI = s.bankI := by cases sel <;> rfl
@[simp] theorem regReadEffect_inputs (sel : Selector) (s : State) : (s.regReadEffect sel).inputs = s.inputs := by cases sel <;> rfl
@[simp] theorem regReadEffect_history (sel : Selector) (s : State) : (s.regReadEffect sel).history = s.history := by cases sel <;> rfl
@[simp] theorem regReadEffect_draws (sel : Selector) (s : State) : (s.regReadEffect sel).draws = s.draws := by cases sel <;> rfl
@[simp] theorem regReadEffect_countFlag (sel : Selector) (s : State) :
    (s.regReadEffect sel).countFlag = (s.countFlag && decide (sel ≠ .tctrl)) := by
  cases sel <;> simp [State.regReadEffect]
@[simp] theorem regReadEffect_bank (sel : Selector) (s : State) : (s.regReadEffect sel).bank = s.bank := by cases sel <;> rfl
@[simp] theorem regReadEffect_lat (sel : Selector) (s : State) : (s.regReadEffect sel).lat = s.lat := by cases sel <;> rfl

/-! `regWrite`: registers only (20_memory.md R63), and the equation of each selector. -/

@[simp] theorem regWrite_cfg (sel : Selector) (v : Word) (s : State) : (s.regWrite sel v).cfg = s.cfg := by cases sel <;> rfl
@[simp] theorem regWrite_cb (sel : Selector) (v : Word) (s : State) : (s.regWrite sel v).cb = s.cb := by cases sel <;> rfl
@[simp] theorem regWrite_tickPending (sel : Selector) (v : Word) (s : State) : (s.regWrite sel v).tickPending = s.tickPending := by cases sel <;> rfl
@[simp] theorem regWrite_handlerActive (sel : Selector) (v : Word) (s : State) : (s.regWrite sel v).handlerActive = s.handlerActive := by cases sel <;> rfl
@[simp] theorem regWrite_imask (sel : Selector) (v : Word) (s : State) : (s.regWrite sel v).imask = s.imask := by cases sel <;> rfl
@[simp] theorem regWrite_fmask (sel : Selector) (v : Word) (s : State) : (s.regWrite sel v).fmask = s.fmask := by cases sel <;> rfl
@[simp] theorem regWrite_ctx (sel : Selector) (v : Word) (s : State) : (s.regWrite sel v).ctx = s.ctx := by cases sel <;> rfl
@[simp] theorem regWrite_bankN (sel : Selector) (v : Word) (s : State) : (s.regWrite sel v).bankN = s.bankN := by cases sel <;> rfl
@[simp] theorem regWrite_bankI (sel : Selector) (v : Word) (s : State) : (s.regWrite sel v).bankI = s.bankI := by cases sel <;> rfl
@[simp] theorem regWrite_inputs (sel : Selector) (v : Word) (s : State) : (s.regWrite sel v).inputs = s.inputs := by cases sel <;> rfl
@[simp] theorem regWrite_history (sel : Selector) (v : Word) (s : State) : (s.regWrite sel v).history = s.history := by cases sel <;> rfl
@[simp] theorem regWrite_draws (sel : Selector) (v : Word) (s : State) : (s.regWrite sel v).draws = s.draws := by cases sel <;> rfl
@[simp] theorem regWrite_bank (sel : Selector) (v : Word) (s : State) : (s.regWrite sel v).bank = s.bank := by cases sel <;> rfl
@[simp] theorem regWrite_lat (sel : Selector) (v : Word) (s : State) : (s.regWrite sel v).lat = s.lat := by cases sel <;> rfl
theorem regWrite_en (r : Fin 5) (v : Word) (s : State) :
    s.regWrite (.en r) v = { s with ien := s.ien ||| ienPlace r v } := rfl
theorem regWrite_dis (r : Fin 5) (v : Word) (s : State) :
    s.regWrite (.dis r) v = { s with ien := s.ien &&& ~~~(ienPlace r v) } := rfl
theorem regWrite_pri (r : Fin 35) (v : Word) (s : State) :
    s.regWrite (.pri r) v = { s with pri := s.pri.set r.val (lowLaneBits s.cfg v) r.isLt } := rfl
theorem regWrite_shc (v : Word) (s : State) : s.regWrite .shc v = { s with shc := v } := rfl
theorem regWrite_syspri1 (v : Word) (s : State) : s.regWrite .syspri1 v = { s with syspri1 := v } := rfl
theorem regWrite_syspri2 (v : Word) (s : State) : s.regWrite .syspri2 v = { s with syspri2 := v } := rfl
theorem regWrite_syspri3 (v : Word) (s : State) : s.regWrite .syspri3 v = { s with syspri3 := v } := rfl
theorem regWrite_tctrl (v : Word) (s : State) :
    s.regWrite .tctrl v
      = { s with
          enable := v.getLsbD s.cfg.tctrlEnableBit.val
          tickInt := v.getLsbD s.cfg.tctrlTickIntBit.val
          clkSrc := v.getLsbD s.cfg.tctrlClkSrcBit.val } := rfl
theorem regWrite_treload (v : Word) (s : State) :
    s.regWrite .treload v = { s with treload := truncTimer s.cfg v } := rfl
theorem regWrite_tcurrent (v : Word) (s : State) :
    s.regWrite .tcurrent v = { s with tcurrent := 0, countFlag := false } := rfl

/-! `readIntoT`. -/

@[simp] theorem readIntoT_cfg (sel : Selector) (k : Nat) (s : State) : (s.readIntoT sel k).cfg = s.cfg := by simp [State.readIntoT]
@[simp] theorem readIntoT_ien (sel : Selector) (k : Nat) (s : State) : (s.readIntoT sel k).ien = s.ien := by simp [State.readIntoT]
@[simp] theorem readIntoT_pri (sel : Selector) (k : Nat) (s : State) : (s.readIntoT sel k).pri = s.pri := by simp [State.readIntoT]
@[simp] theorem readIntoT_shc (sel : Selector) (k : Nat) (s : State) : (s.readIntoT sel k).shc = s.shc := by simp [State.readIntoT]
@[simp] theorem readIntoT_syspri1 (sel : Selector) (k : Nat) (s : State) : (s.readIntoT sel k).syspri1 = s.syspri1 := by simp [State.readIntoT]
@[simp] theorem readIntoT_syspri2 (sel : Selector) (k : Nat) (s : State) : (s.readIntoT sel k).syspri2 = s.syspri2 := by simp [State.readIntoT]
@[simp] theorem readIntoT_syspri3 (sel : Selector) (k : Nat) (s : State) : (s.readIntoT sel k).syspri3 = s.syspri3 := by simp [State.readIntoT]
@[simp] theorem readIntoT_enable (sel : Selector) (k : Nat) (s : State) : (s.readIntoT sel k).enable = s.enable := by simp [State.readIntoT]
@[simp] theorem readIntoT_tickInt (sel : Selector) (k : Nat) (s : State) : (s.readIntoT sel k).tickInt = s.tickInt := by simp [State.readIntoT]
@[simp] theorem readIntoT_clkSrc (sel : Selector) (k : Nat) (s : State) : (s.readIntoT sel k).clkSrc = s.clkSrc := by simp [State.readIntoT]
@[simp] theorem readIntoT_treload (sel : Selector) (k : Nat) (s : State) : (s.readIntoT sel k).treload = s.treload := by simp [State.readIntoT]
@[simp] theorem readIntoT_tcurrent (sel : Selector) (k : Nat) (s : State) : (s.readIntoT sel k).tcurrent = s.tcurrent := by simp [State.readIntoT]
@[simp] theorem readIntoT_cb (sel : Selector) (k : Nat) (s : State) : (s.readIntoT sel k).cb = s.cb := by simp [State.readIntoT]
@[simp] theorem readIntoT_tickPending (sel : Selector) (k : Nat) (s : State) : (s.readIntoT sel k).tickPending = s.tickPending := by simp [State.readIntoT]
@[simp] theorem readIntoT_handlerActive (sel : Selector) (k : Nat) (s : State) : (s.readIntoT sel k).handlerActive = s.handlerActive := by simp [State.readIntoT]
@[simp] theorem readIntoT_imask (sel : Selector) (k : Nat) (s : State) : (s.readIntoT sel k).imask = s.imask := by simp [State.readIntoT]
@[simp] theorem readIntoT_fmask (sel : Selector) (k : Nat) (s : State) : (s.readIntoT sel k).fmask = s.fmask := by simp [State.readIntoT]
@[simp] theorem readIntoT_ctx (sel : Selector) (k : Nat) (s : State) : (s.readIntoT sel k).ctx = s.ctx := by simp [State.readIntoT]
@[simp] theorem readIntoT_inputs (sel : Selector) (k : Nat) (s : State) : (s.readIntoT sel k).inputs = s.inputs := by simp [State.readIntoT]
@[simp] theorem readIntoT_draws (sel : Selector) (k : Nat) (s : State) : (s.readIntoT sel k).draws = s.draws := by simp [State.readIntoT]

@[simp] theorem readIntoT_countFlag (sel : Selector) (k : Nat) (s : State) :
    (s.readIntoT sel k).countFlag = (s.countFlag && decide (sel ≠ .tctrl)) := by
  simp [State.readIntoT]
@[simp] theorem readIntoT_history (sel : Selector) (k : Nat) (s : State) :
    (s.readIntoT sel k).history = .read s.ctx sel (s.regValue sel) :: s.history := by
  simp [State.readIntoT]
@[simp] theorem readIntoT_bank (sel : Selector) (k : Nat) (s : State) :
    (s.readIntoT sel k).bank = { s.bank with cur := { s.lat with t := s.regValue sel, ustep := k } } := by
  simp [State.readIntoT]
@[simp] theorem readIntoT_lat (sel : Selector) (k : Nat) (s : State) :
    (s.readIntoT sel k).lat = { s.lat with t := s.regValue sel, ustep := k } := by
  simp [State.readIntoT]

/-! `handlerReturn`: HANDLER_ACTIVE, CTX and the history (60_exceptions.md R213). -/

@[simp] theorem handlerReturn_cfg (s : State) : (s.handlerReturn).cfg = s.cfg := rfl
@[simp] theorem handlerReturn_ien (s : State) : (s.handlerReturn).ien = s.ien := rfl
@[simp] theorem handlerReturn_pri (s : State) : (s.handlerReturn).pri = s.pri := rfl
@[simp] theorem handlerReturn_shc (s : State) : (s.handlerReturn).shc = s.shc := rfl
@[simp] theorem handlerReturn_syspri1 (s : State) : (s.handlerReturn).syspri1 = s.syspri1 := rfl
@[simp] theorem handlerReturn_syspri2 (s : State) : (s.handlerReturn).syspri2 = s.syspri2 := rfl
@[simp] theorem handlerReturn_syspri3 (s : State) : (s.handlerReturn).syspri3 = s.syspri3 := rfl
@[simp] theorem handlerReturn_enable (s : State) : (s.handlerReturn).enable = s.enable := rfl
@[simp] theorem handlerReturn_tickInt (s : State) : (s.handlerReturn).tickInt = s.tickInt := rfl
@[simp] theorem handlerReturn_clkSrc (s : State) : (s.handlerReturn).clkSrc = s.clkSrc := rfl
@[simp] theorem handlerReturn_countFlag (s : State) : (s.handlerReturn).countFlag = s.countFlag := rfl
@[simp] theorem handlerReturn_treload (s : State) : (s.handlerReturn).treload = s.treload := rfl
@[simp] theorem handlerReturn_tcurrent (s : State) : (s.handlerReturn).tcurrent = s.tcurrent := rfl
@[simp] theorem handlerReturn_cb (s : State) : (s.handlerReturn).cb = s.cb := rfl
@[simp] theorem handlerReturn_tickPending (s : State) : (s.handlerReturn).tickPending = s.tickPending := rfl
@[simp] theorem handlerReturn_imask (s : State) : (s.handlerReturn).imask = s.imask := rfl
@[simp] theorem handlerReturn_fmask (s : State) : (s.handlerReturn).fmask = s.fmask := rfl
@[simp] theorem handlerReturn_bankN (s : State) : (s.handlerReturn).bankN = s.bankN := rfl
@[simp] theorem handlerReturn_bankI (s : State) : (s.handlerReturn).bankI = s.bankI := rfl
@[simp] theorem handlerReturn_inputs (s : State) : (s.handlerReturn).inputs = s.inputs := rfl
@[simp] theorem handlerReturn_draws (s : State) : (s.handlerReturn).draws = s.draws := rfl
@[simp] theorem handlerReturn_handlerActive (s : State) : s.handlerReturn.handlerActive = false := rfl
@[simp] theorem handlerReturn_ctx (s : State) : s.handlerReturn.ctx = .normal := rfl
@[simp] theorem handlerReturn_history (s : State) : s.handlerReturn.history = .handlerReturn :: s.history := rfl

end Sys2Proof.Machine
end

