-- ==== Sys2Proof/Laws/Ops.lean ====
section
/-! SUPPORT. What each shared operation does, once: the fields of a command word, the bits of IEN, the current bank, a micro-step
of a command, and the end of a command. -/

namespace Sys2Proof.Machine

/-! The command word. -/

@[simp] theorem ofFields_op (op a : Byte) (b : Word) : CommandWord.op (CommandWord.ofFields op a b) = op := by
  ext i hi
  simp only [CommandWord.op, CommandWord.ofFields, BitVec.getElem_extractLsb', BitVec.getLsbD_append]
  have h1 : ¬ (40 + i < 32) := by omega
  have h2 : ¬ (40 + i - 32 < 8) := by omega
  have h3 : 40 + i - 32 - 8 = i := by omega
  simp [h1, h2, h3, BitVec.getLsbD_eq_getElem hi]

@[simp] theorem ofFields_a (op a : Byte) (b : Word) : CommandWord.a (CommandWord.ofFields op a b) = a := by
  ext i hi
  simp only [CommandWord.a, CommandWord.ofFields, BitVec.getElem_extractLsb', BitVec.getLsbD_append]
  have h1 : ¬ (32 + i < 32) := by omega
  have h3 : 32 + i - 32 = i := by omega
  simp [h3, hi]

@[simp] theorem ofFields_b (op a : Byte) (b : Word) : CommandWord.b (CommandWord.ofFields op a b) = b := by
  ext i hi
  simp only [CommandWord.b, CommandWord.ofFields, BitVec.getElem_extractLsb', BitVec.getLsbD_append]
  simp [hi]

/-- A command word is its three fields (30_encoding.md R90). -/
theorem ofFields_self (w : CommandWord) : CommandWord.ofFields w.op w.a w.b = w := by
  refine BitVec.eq_of_getLsbD_eq fun i hi => ?_
  simp only [CommandWord.op, CommandWord.a, CommandWord.b, CommandWord.ofFields, BitVec.getLsbD_append,
    BitVec.getLsbD_extractLsb']
  by_cases h1 : i < 32
  · simp [h1]
  · by_cases h2 : i < 40
    · have h3 : i - 32 < 8 := by omega
      have h4 : 32 + (i - 32) = i := by omega
      simp [h1, h3, h4]
    · have h3 : ¬ (i - 32 < 8) := by omega
      have h4 : i - 32 - 8 < 8 := by omega
      have h5 : 40 + (i - 32 - 8) = i := by omega
      simp [h1, h3, h4, h5]

@[simp] theorem encode_op (i : Instr) : CommandWord.op (encode i) = i.opcode := by simp [encode]
@[simp] theorem encode_a (i : Instr) : CommandWord.a (encode i) = i.fieldA := by simp [encode]
@[simp] theorem encode_b (i : Instr) : CommandWord.b (encode i) = i.fieldB := by simp [encode]

/-- On the port, 0 is `none` and every other word is itself (30_encoding.md R92). -/
theorem callbackOfWord_wordOfCallback (f : Option Reference) (h : callbackWellFormed f = true) :
    callbackOfWord (wordOfCallback f) = f := by
  cases f with
  | none => rfl
  | some g =>
    have hg : ¬ g = 0#32 := by simpa [callbackWellFormed] using h
    simp [callbackOfWord, wordOfCallback, hg]

theorem callbackOfWord_wellFormed (b : Word) : callbackWellFormed (callbackOfWord b) = true := by
  unfold callbackOfWord
  split
  · rfl
  · simpa [callbackWellFormed]

/-! The bits of IEN (10_state.md R31). -/

theorem ienPlace_bit (r : Fin 5) (v : Word) (j : Nat) :
    (ienPlace r v).getLsbD j = (decide (32 * r.val ≤ j ∧ j < 32 * r.val + 32) && v.getLsbD (j - 32 * r.val)) := by
  have hr := r.isLt
  simp only [ienPlace, BitVec.getLsbD_shiftLeft, BitVec.truncate_eq_setWidth, BitVec.getLsbD_setWidth]
  by_cases h : j < 32 * r.val
  · simp [h, Nat.not_le.mpr h]
  · by_cases h2 : j < 32 * r.val + 32
    · have h3 : j < 160 := by omega
      have h4 : j - 32 * r.val < 160 := by omega
      have h5 : 32 * r.val ≤ j := by omega
      simp [h, h2, h3, h4, h5]
    · have h6 : v.getLsbD (j - 32 * r.val) = false := BitVec.getLsbD_of_ge _ _ (by omega)
      simp [h6]

theorem ienWord_bit (s : State) (r : Fin 5) (j : Nat) :
    (s.ienWord r).getLsbD j = (decide (j < 32) && s.ien.getLsbD (32 * r.val + j)) := by
  simp [State.ienWord, BitVec.getLsbD_extractLsb']

theorem enableMask_bit (i : Irq) (j : Nat) : (enableMask i).getLsbD j = decide (j = i.val % 32) := by
  have h := Nat.mod_lt i.val (show 0 < 32 by omega)
  simp only [enableMask, enableBit, BitVec.getLsbD_shiftLeft, BitVec.getLsbD_one]
  by_cases hj : j = i.val % 32
  · simp [hj, h]
  · by_cases h2 : j < i.val % 32
    · simp [h2, hj]
    · have : j - i.val % 32 ≠ 0 := by omega
      simp [this, hj]

/-- A one-hot word has its one bit. -/
theorem bitWord_bit (bit : Fin 32) (j : Nat) : (bitWord bit).getLsbD j = decide (j = bit.val) := by
  have h := bit.isLt
  simp only [bitWord, BitVec.getLsbD_shiftLeft, BitVec.getLsbD_one]
  by_cases hj : j = bit.val
  · simp [hj]
  · by_cases h2 : j < bit.val
    · simp [h2, hj]
    · have : j - bit.val ≠ 0 := by omega
      simp [this, hj]

/-- A field of TCTRL shows at its own position only (10_state.md R40). -/
theorem flagWord_bit (b : Bool) (bit : Fin 32) (j : Nat) : (flagWord b bit).getLsbD j = (b && decide (j = bit.val)) := by
  cases b <;> simp [flagWord, bitWord_bit]

/-- The ranges and the distinct positions a well-formed configuration has (92_eei_decisions.md D16, D17, D22). -/
theorem wellFormed_positions {c : Config} (h : c.wellFormed = true) :
    (1 ≤ c.timerBits ∧ c.timerBits ≤ 32) ∧ c.tctrlEnableBit ≠ c.tctrlTickIntBit ∧ c.tctrlEnableBit ≠ c.tctrlClkSrcBit
      ∧ c.tctrlEnableBit ≠ c.tctrlCountFlagBit ∧ c.tctrlTickIntBit ≠ c.tctrlClkSrcBit
      ∧ c.tctrlTickIntBit ≠ c.tctrlCountFlagBit ∧ c.tctrlClkSrcBit ≠ c.tctrlCountFlagBit := by
  simp only [Config.wellFormed, Bool.and_eq_true, decide_eq_true_eq] at h
  tauto

/-! The current bank. -/

@[simp] theorem bankOf_ctx (s : State) : s.bankOf s.ctx = s.bank := by
  cases h : s.ctx <;> simp [State.bankOf, State.bank, h]

@[simp] theorem bankOf_setBank (b : Bank) (s : State) : (s.setBank b).bankOf s.ctx = b := by
  cases h : s.ctx <;> simp [State.bankOf, State.setBank, h]

@[simp] theorem bankOf_other_setBank (b : Bank) (s : State) :
    (s.setBank b).bankOf s.ctx.other = s.bankOf s.ctx.other := by
  cases h : s.ctx <;> simp [State.bankOf, State.setBank, Ctx.other, h]

@[simp] theorem bankOf_other_setLat (l : Latches) (s : State) :
    (s.setLat l).bankOf s.ctx.other = s.bankOf s.ctx.other := by
  simp [State.setLat]

@[simp] theorem bankOf_record (c : Ctx) (e : Event) (s : State) : (s.record e).bankOf c = s.bankOf c := by
  cases c <;> rfl

@[simp] theorem bankOf_regWrite (c : Ctx) (sel : Selector) (v : Word) (s : State) :
    (s.regWrite sel v).bankOf c = s.bankOf c := by
  cases c <;> simp [State.bankOf]

@[simp] theorem bankOf_regReadEffect (c : Ctx) (sel : Selector) (s : State) :
    (s.regReadEffect sel).bankOf c = s.bankOf c := by
  cases c <;> simp [State.bankOf]

@[simp] theorem bankOf_withInputs (c : Ctx) (x : List Input) (s : State) : (s.withInputs x).bankOf c = s.bankOf c := by
  cases c <;> rfl

@[simp] theorem bankOf_other_advance (s : State) : s.advance.bankOf s.ctx.other = s.bankOf s.ctx.other := by
  simp [State.advance]

@[simp] theorem bankOf_other_readIntoT (sel : Selector) (k : Nat) (s : State) :
    (s.readIntoT sel k).bankOf s.ctx.other = s.bankOf s.ctx.other := by
  have h : (s.regReadEffect sel).ctx = s.ctx := by simp
  rw [State.readIntoT, bankOf_record]
  rw [← h, bankOf_other_setLat, bankOf_regReadEffect, h]

@[simp] theorem bankOf_handlerReturn (c : Ctx) (s : State) : s.handlerReturn.bankOf c = s.bankOf c := by
  cases c <;> rfl

/-! The steps of a command (10_state.md R24, R25). -/

/-- Every instruction is a command: its word and its micro-steps. -/
theorem exec_eq_command (i : Instr) (s : State) : exec i s = s.command (encode i) (microsOf s.cfg i) := by
  cases i <;> rfl

theorem canAccept_eq_false {s : State} {k : Nat} (h : s.AtStep (k + 1)) : s.canAccept = false := by
  simp [State.canAccept, h.1, h.2]

/-- A command at its `k + 1`-th micro-step makes exactly that micro-step. -/
theorem command_at_step {w : CommandWord} {ms : List (Latches → Micro)} {s : State} {k : Nat} {m : Latches → Micro}
    (h : s.AtStep (k + 1)) (hm : ms[k]? = some m) : s.command w ms = .next (s.perform (m s.lat)) := by
  simp [State.command, canAccept_eq_false h, h.1, hm]

theorem exec_at_step {i : Instr} {s : State} {k : Nat} {m : Latches → Micro}
    (h : s.AtStep (k + 1)) (hm : (microsOf s.cfg i)[k]? = some m) : exec i s = .next (s.perform (m s.lat)) := by
  rw [exec_eq_command]
  exact command_at_step h hm

/-- What a step of a command can do: acceptance, or one micro-step of its list. -/
theorem command_next {w : CommandWord} {ms : List (Latches → Micro)} {s t : State} (h : s.command w ms = .next t) :
    (s.canAccept = true ∧ t = s.accept w)
      ∨ (s.canAccept = false ∧ ∃ m ∈ ms, ms[s.lat.ustep - 1]? = some m ∧ t = s.perform (m s.lat)) := by
  unfold State.command at h
  split at h
  next hc => exact .inl ⟨hc, by simpa using h.symm⟩
  next hc =>
    refine .inr ⟨by simpa using hc, ?_⟩
    split at h
    next m hm => exact ⟨m, List.mem_of_getElem? hm, hm, by simpa using h.symm⟩
    next => simp at h

/-- A command never refuses, and faults only where USTEP names no micro-step. -/
theorem command_total (w : CommandWord) (ms : List (Latches → Micro)) (s : State) :
    (∃ t, s.command w ms = .next t)
      ∨ (s.canAccept = false ∧ ms[s.lat.ustep - 1]? = none ∧ s.command w ms = .fault .sequencerOverrun) := by
  unfold State.command
  split
  · exact .inl ⟨_, rfl⟩
  next hc =>
    split
    · exact .inl ⟨_, rfl⟩
    next h => exact .inr ⟨by simpa using hc, h, rfl⟩

/-! Each micro-step, by name (10_state.md R25). -/

theorem perform_read (sel : Selector) (s : State) : s.perform (.read sel) = s.readIntoT sel (s.lat.ustep + 1) := rfl

theorem perform_poll (sel : Selector) (mask : Word) (s : State) :
    s.perform (.poll sel mask)
      = s.readIntoT sel (if pollDone (s.regValue sel) mask then s.lat.ustep + 1 else s.lat.ustep) := rfl

theorem perform_write (sel : Selector) (v : Word) (s : State) :
    s.perform (.write sel v) = ((s.regWrite sel v).advance).record (.write s.ctx sel v) := rfl

theorem perform_loadCb (s : State) :
    s.perform .loadCb
      = (s.setLat { s.lat with f := s.cb, ustep := s.lat.ustep + 1 }).record (.cbLoad s.ctx s.cb) := rfl

theorem perform_storeCb (f : Option Reference) (s : State) :
    s.perform (.storeCb f) = ({ s with cb := f }.advance).record (.cbStore s.ctx f) := rfl

theorem perform_setIMask (b : Bool) (s : State) :
    s.perform (.setIMask b) = ({ s with imask := b }.advance).record (.setIMask s.ctx b) := rfl

theorem perform_setFMask (b : Bool) (s : State) :
    s.perform (.setFMask b) = ({ s with fmask := b }.advance).record (.setFMask s.ctx b) := rfl

theorem perform_raiseSvc (s : State) : s.perform .raiseSvc = s.advance.record (.svc s.ctx) := rfl

theorem perform_callOut (g : Reference) (s : State) :
    s.perform (.callOut g) = (s.setLat { s.lat with calling := some g }).record (.call g) := rfl

theorem perform_result (c : ResultCode) (s : State) : s.perform (.result c) = s.finish c := rfl

/-! The end of a command (60_exceptions.md R200, R213). -/

@[simp] theorem finish_cfg (c : ResultCode) (s : State) : (s.finish c).cfg = s.cfg := by
  unfold State.finish; cases s.bank.saved <;> cases s.ctx <;> simp
@[simp] theorem finish_ien (c : ResultCode) (s : State) : (s.finish c).ien = s.ien := by
  unfold State.finish; cases s.bank.saved <;> cases s.ctx <;> simp
@[simp] theorem finish_pri (c : ResultCode) (s : State) : (s.finish c).pri = s.pri := by
  unfold State.finish; cases s.bank.saved <;> cases s.ctx <;> simp
@[simp] theorem finish_shc (c : ResultCode) (s : State) : (s.finish c).shc = s.shc := by
  unfold State.finish; cases s.bank.saved <;> cases s.ctx <;> simp
@[simp] theorem finish_syspri1 (c : ResultCode) (s : State) : (s.finish c).syspri1 = s.syspri1 := by
  unfold State.finish; cases s.bank.saved <;> cases s.ctx <;> simp
@[simp] theorem finish_syspri2 (c : ResultCode) (s : State) : (s.finish c).syspri2 = s.syspri2 := by
  unfold State.finish; cases s.bank.saved <;> cases s.ctx <;> simp
@[simp] theorem finish_syspri3 (c : ResultCode) (s : State) : (s.finish c).syspri3 = s.syspri3 := by
  unfold State.finish; cases s.bank.saved <;> cases s.ctx <;> simp
@[simp] theorem finish_enable (c : ResultCode) (s : State) : (s.finish c).enable = s.enable := by
  unfold State.finish; cases s.bank.saved <;> cases s.ctx <;> simp
@[simp] theorem finish_tickInt (c : ResultCode) (s : State) : (s.finish c).tickInt = s.tickInt := by
  unfold State.finish; cases s.bank.saved <;> cases s.ctx <;> simp
@[simp] theorem finish_clkSrc (c : ResultCode) (s : State) : (s.finish c).clkSrc = s.clkSrc := by
  unfold State.finish; cases s.bank.saved <;> cases s.ctx <;> simp
@[simp] theorem finish_countFlag (c : ResultCode) (s : State) : (s.finish c).countFlag = s.countFlag := by
  unfold State.finish; cases s.bank.saved <;> cases s.ctx <;> simp
@[simp] theorem finish_treload (c : ResultCode) (s : State) : (s.finish c).treload = s.treload := by
  unfold State.finish; cases s.bank.saved <;> cases s.ctx <;> simp
@[simp] theorem finish_tcurrent (c : ResultCode) (s : State) : (s.finish c).tcurrent = s.tcurrent := by
  unfold State.finish; cases s.bank.saved <;> cases s.ctx <;> simp
@[simp] theorem finish_cb (c : ResultCode) (s : State) : (s.finish c).cb = s.cb := by
  unfold State.finish; cases s.bank.saved <;> cases s.ctx <;> simp
@[simp] theorem finish_tickPending (c : ResultCode) (s : State) : (s.finish c).tickPending = s.tickPending := by
  unfold State.finish; cases s.bank.saved <;> cases s.ctx <;> simp
@[simp] theorem finish_imask (c : ResultCode) (s : State) : (s.finish c).imask = s.imask := by
  unfold State.finish; cases s.bank.saved <;> cases s.ctx <;> simp
@[simp] theorem finish_fmask (c : ResultCode) (s : State) : (s.finish c).fmask = s.fmask := by
  unfold State.finish; cases s.bank.saved <;> cases s.ctx <;> simp
@[simp] theorem finish_inputs (c : ResultCode) (s : State) : (s.finish c).inputs = s.inputs := by
  unfold State.finish; cases s.bank.saved <;> cases s.ctx <;> simp
@[simp] theorem finish_draws (c : ResultCode) (s : State) : (s.finish c).draws = s.draws := by
  unfold State.finish; cases s.bank.saved <;> cases s.ctx <;> simp

theorem finish_commandEnded (c : ResultCode) (s : State) : CommandEnded s c (s.finish c) := by
  unfold CommandEnded State.finish
  cases hc : s.ctx <;>
    (cases s.bank.saved <;>
      simp [State.bankOf, State.setBank, Ctx.other, State.handlerReturn, State.record, hc])

theorem finish_history (c : ResultCode) (s : State) : (s.finish c).history = endEvents s c ++ s.history := by
  unfold State.finish endEvents
  cases s.bank.saved <;> cases s.ctx <;> simp

/-- The result micro-step makes no register access and changes no state but the bank's and the context's. -/
theorem finish_onlyEnded (c : ResultCode) (s : State) : OnlyEnded s c (s.finish c) := by
  simp [OnlyEnded, SameIrqController, SamePriorities, SameSystemRegisters, SameTimer, SameMasks, SameOutside,
    finish_commandEnded, finish_history]

/-- `CommandEnded` looks at the start state through the context, HANDLER_ACTIVE, the other bank and the saved latches only. -/
theorem commandEnded_from {s s' t : State} {c : ResultCode} (hc : s'.ctx = s.ctx) (hh : s'.handlerActive = s.handlerActive)
    (hb : s'.bankOf s.ctx.other = s.bankOf s.ctx.other) (hv : s'.bank.saved = s.bank.saved)
    (h : CommandEnded s' c t) : CommandEnded s c t := by
  unfold CommandEnded at *
  rw [hc, hh, hv, hb] at h
  exact h

theorem endEvents_from {s s' : State} {c : ResultCode} (hc : s'.ctx = s.ctx) (ho : s'.lat.op = s.lat.op)
    (hv : s'.bank.saved = s.bank.saved) : endEvents s' c = endEvents s c := by
  unfold endEvents
  rw [hc, ho, hv]

/-! The other bank. -/

/-- No micro-step touches the bank of the context that does not run (10_state.md R23). -/
theorem perform_other (m : Micro) (s : State) : (s.perform m).bankOf s.ctx.other = s.bankOf s.ctx.other := by
  have adv : ∀ u : State, u.ctx = s.ctx → u.bankOf s.ctx.other = s.bankOf s.ctx.other →
      u.advance.bankOf s.ctx.other = s.bankOf s.ctx.other := fun u hc hb => by
    rw [← hc, bankOf_other_advance, hc, hb]
  cases m with
  | read sel => rw [perform_read, bankOf_other_readIntoT]
  | poll sel mask => rw [perform_poll, bankOf_other_readIntoT]
  | write sel v => rw [perform_write, bankOf_record, adv _ (by simp) (by simp)]
  | loadCb => rw [perform_loadCb, bankOf_record, bankOf_other_setLat]
  | storeCb f => rw [perform_storeCb, bankOf_record]; exact adv _ rfl (by cases s.ctx <;> rfl)
  | setIMask b => rw [perform_setIMask, bankOf_record]; exact adv _ rfl (by cases s.ctx <;> rfl)
  | setFMask b => rw [perform_setFMask, bankOf_record]; exact adv _ rfl (by cases s.ctx <;> rfl)
  | raiseSvc => rw [perform_raiseSvc, bankOf_record, bankOf_other_advance]
  | callOut g => rw [perform_callOut, bankOf_record, bankOf_other_setLat]
  | result c => rw [perform_result]; exact (finish_commandEnded c s).2.1

/-- What a step of a command leaves of the bank of the other context: all of it. -/
theorem command_other {w : CommandWord} {ms : List (Latches → Micro)} {s t : State} (h : s.command w ms = .next t) :
    t.bankOf s.ctx.other = s.bankOf s.ctx.other := by
  obtain ⟨-, rfl⟩ | ⟨-, m, -, -, rfl⟩ := command_next h
  · exact bankOf_other_setBank _ s
  · exact perform_other _ s

/-- In the normal context no micro-step changes CTX or HANDLER_ACTIVE (10_state.md R26, R48). -/
theorem perform_normal (m : Micro) {s : State} (h : s.ctx = .normal) :
    (s.perform m).ctx = .normal ∧ (s.perform m).handlerActive = s.handlerActive := by
  cases m with
  | result c =>
    rw [perform_result]
    unfold State.finish
    cases s.bank.saved <;> simp [h]
  | read sel => simp [perform_read, h]
  | poll sel mask => simp [perform_poll, h]
  | write sel v => simp [perform_write, h]
  | loadCb => simp [perform_loadCb, h]
  | storeCb f => simp [perform_storeCb, h]
  | setIMask b => simp [perform_setIMask, h]
  | setFMask b => simp [perform_setFMask, h]
  | raiseSvc => simp [perform_raiseSvc, h]
  | callOut g => simp [perform_callOut, h]

theorem command_normal {w : CommandWord} {ms : List (Latches → Micro)} {s t : State} (h : s.command w ms = .next t)
    (hc : s.ctx = .normal) : t.ctx = .normal ∧ t.handlerActive = s.handlerActive := by
  obtain ⟨-, rfl⟩ | ⟨-, m, -, -, rfl⟩ := command_next h
  · exact ⟨hc, rfl⟩
  · exact perform_normal _ hc

/-- What an instruction's step leaves outside its own bank: the other bank, and in the normal context CTX and HANDLER_ACTIVE. -/
theorem exec_outside {i : Instr} {s t : State} (h : exec i s = .next t) :
    t.bankOf s.ctx.other = s.bankOf s.ctx.other
      ∧ (s.ctx = .normal → t.ctx = .normal ∧ t.handlerActive = s.handlerActive) := by
  rw [exec_eq_command] at h
  exact ⟨command_other h, command_normal h⟩

/-! A micro-step that does not end its command (10_state.md R21, R22). -/

theorem perform_goes_on {m : Micro} {s : State} (h : ∀ c, m ≠ .result c) :
    SameCommand s (s.perform m) ∧ TKeptOrRead s (s.perform m) := by
  have adv : ∀ (u : State) (e : Event), u.bank = s.bank → u.ctx = s.ctx → u.handlerActive = s.handlerActive →
      SameCommand s (u.advance.record e) ∧ TKeptOrRead s (u.advance.record e) := fun u e hb hc hh => by
    have hl : u.lat = s.lat := by rw [State.lat, hb, State.lat]
    exact ⟨by simp [SameCommand, State.advance, hb, hc, hh, hl], .inl (by simp [State.advance, hl])⟩
  cases m with
  | result c => exact absurd rfl (h c)
  | read sel => exact ⟨by simp [SameCommand, perform_read], .inr ⟨sel, by simp [perform_read], by simp [perform_read]⟩⟩
  | poll sel mask =>
    exact ⟨by simp [SameCommand, perform_poll], .inr ⟨sel, by simp [perform_poll], by simp [perform_poll]⟩⟩
  | write sel v => exact adv _ _ (by simp) (by simp) (by simp)
  | loadCb => exact ⟨by simp [SameCommand, perform_loadCb], .inl (by simp [perform_loadCb])⟩
  | storeCb f => exact adv _ _ rfl rfl rfl
  | setIMask b => exact adv _ _ rfl rfl rfl
  | setFMask b => exact adv _ _ rfl rfl rfl
  | raiseSvc => exact adv _ _ rfl rfl rfl
  | callOut g => exact ⟨by simp [SameCommand, perform_callOut], .inl (by simp [perform_callOut])⟩

/-- The end of a command records its result. -/
theorem finish_ended (c : ResultCode) (s : State) : ¬ NotEnded s (s.finish c) := by
  intro h
  have hh := finish_history c s
  unfold endEvents at hh
  split at hh
  · exact h c [.handlerReturn] hh
  · exact h c [] hh

theorem exec_goes_on {i : Instr} {s t : State} (h : exec i s = .next t) (hc : s.canAccept = false) (hn : NotEnded s t) :
    SameCommand s t ∧ TKeptOrRead s t := by
  rw [exec_eq_command] at h
  obtain ⟨ha, -⟩ | ⟨-, m, -, -, rfl⟩ := command_next h
  · rw [hc] at ha; cases ha
  · refine perform_goes_on fun c hm => ?_
    rw [hm, perform_result] at hn
    exact finish_ended c s hn

end Sys2Proof.Machine
end

