-- ==== Sys2Proof/Laws/PerInstr.lean ====
section
/-! SUPPORT. A statement about every instruction as syntax, lemma by lemma: the `op` byte of its word is its opcode, one of the 13
of 30_encoding.md rule R93, so no instruction is encoded as a reserved opcode (R104). -/

namespace Sys2Proof.Laws.OpcodeField

def Statement (i : Instr) : Prop :=
  CommandWord.op (encode i) = i.opcode ∧ 0x01 ≤ i.opcode.toNat ∧ i.opcode.toNat ≤ 0x0D

theorem of_opcode (i : Instr) (hl : Nat.ble 0x01 i.opcode.toNat = true) (hu : Nat.ble i.opcode.toNat 0x0D = true) :
    Statement i := ⟨Machine.encode_op i, Nat.le_of_ble_eq_true hl, Nat.le_of_ble_eq_true hu⟩

theorem enableIRQ (id : Byte) : Statement (.enableIRQ id) := of_opcode _ rfl rfl
theorem disableIRQ (id : Byte) : Statement (.disableIRQ id) := of_opcode _ rfl rfl
theorem setPriorityIRQ (id : Byte) (priority : Word) : Statement (.setPriorityIRQ id priority) := of_opcode _ rfl rfl
theorem enableException (kind : Byte) : Statement (.enableException kind) := of_opcode _ rfl rfl
theorem disableException (kind : Byte) : Statement (.disableException kind) := of_opcode _ rfl rfl
theorem setPriorityException (kind : Byte) (priority : Word) : Statement (.setPriorityException kind priority) := of_opcode _ rfl rfl
theorem init (periodMs : Word) : Statement (.init periodMs) := of_opcode _ rfl rfl
theorem startBusyWait (periodMs : Word) : Statement (.startBusyWait periodMs) := of_opcode _ rfl rfl
theorem setCallBack (fn : Option Reference) : Statement (.setCallBack fn) := of_opcode _ rfl rfl
theorem handler : Statement .handler := of_opcode _ rfl rfl
theorem start : Statement .start := of_opcode _ rfl rfl
theorem stop : Statement .stop := of_opcode _ rfl rfl
theorem deInit : Statement .deInit := of_opcode _ rfl rfl

end Sys2Proof.Laws.OpcodeField
end

