-- ==== Sys2Proof/Laws/Runs.lean ====
section
/-! SUPPORT. Whole runs of commands of one shape, with nothing stepping between their micro-steps: a result alone, one action and
a result, a read-modify-write (20_memory.md R66). Each lemma says once where the run ends and what it changed. -/

namespace Sys2Proof.Machine

/-- An identifier in range is the same number among the 140 that have a bit and a lane (30_encoding.md R101). -/
theorem irqInRange_of_lt {cfg : Config} {id : Byte} (h : id.toNat < cfg.nIrq.val) :
    irqInRange cfg id = some ⟨id.toNat, by have := cfg.nIrq.isLt; omega⟩ := by
  simp [irqInRange, h]

theorem irqInRange_of_ge {cfg : Config} {id : Byte} (h : cfg.nIrq.val ≤ id.toNat) : irqInRange cfg id = none := by
  simp [irqInRange, Nat.not_lt.mpr h]

/-- What the end of a command leaves, seen from an earlier state of the same command: `s'` is the state before the result
micro-step, and differs from `s` in nothing `CommandEnded` and `endEvents` look at. -/
theorem finish_from {s s' : State} (c : ResultCode) (hc : s'.ctx = s.ctx) (hh : s'.handlerActive = s.handlerActive)
    (hb : s'.bankOf s.ctx.other = s.bankOf s.ctx.other) (hv : s'.bank.saved = s.bank.saved)
    (ho : s'.lat.op = s.lat.op) :
    CommandEnded s c (s'.finish c) ∧ (s'.finish c).history = endEvents s c ++ s'.history :=
  ⟨commandEnded_from hc hh hb hv (finish_commandEnded c s'), by
    rw [finish_history, endEvents_from hc ho hv]⟩

/-- A command whose only micro-step is its result. -/
theorem run_result {i : Instr} {s : State} {c : ResultCode} (hm : microsOf s.cfg i = [fun _ => .result c])
    (h : s.AtStep 1) : exec i s = .next (s.finish c) ∧ OnlyEnded s c (s.finish c) :=
  ⟨exec_at_step (k := 0) (m := fun _ => .result c) h (by rw [hm]; rfl), finish_onlyEnded c s⟩

/-- A command of one action and a result, where the action is a step of the state that leaves the command at its second
micro-step. -/
theorem run_action {i : Instr} {s : State} {m : Micro} {c : ResultCode}
    (hm : microsOf s.cfg i = [fun _ => m, fun _ => .result c]) (h : s.AtStep 1)
    (hcfg : (s.perform m).cfg = s.cfg) (hstep : (s.perform m).AtStep 2) :
    exec i s = .next (s.perform m) ∧ exec i (s.perform m) = .next ((s.perform m).finish c) := by
  refine ⟨exec_at_step (k := 0) (m := fun _ => m) h (by rw [hm]; rfl), ?_⟩
  exact exec_at_step (k := 1) (m := fun _ => .result c) hstep (by rw [hcfg, hm]; rfl)

/-- The state a read-modify-write leaves before its result: the read's side effect, the write, T, USTEP and two events. -/
def State.rmwDone (sel : Selector) (g : Word → Word) (s : State) : State :=
  (s.readIntoT sel 2).perform (.write sel (g (s.regValue sel)))

theorem rmwDone_cfg (sel : Selector) (g : Word → Word) (s : State) : (s.rmwDone sel g).cfg = s.cfg := by
  simp [State.rmwDone, perform_write]

theorem rmwDone_atStep {sel : Selector} {g : Word → Word} {s : State} (h : s.AtStep 1) :
    (s.rmwDone sel g).AtStep 3 := by
  simp [State.rmwDone, State.AtStep, perform_write, h.2]

theorem rmwDone_history (sel : Selector) (g : Word → Word) (s : State) :
    (s.rmwDone sel g).history
      = .write s.ctx sel (g (s.regValue sel)) :: .read s.ctx sel (s.regValue sel) :: s.history := by
  simp [State.rmwDone, perform_write]

theorem rmwDone_other (sel : Selector) (g : Word → Word) (s : State) :
    (s.rmwDone sel g).bankOf s.ctx.other = s.bankOf s.ctx.other := by
  have h := bankOf_other_advance ((s.readIntoT sel 2).regWrite sel (g (s.regValue sel)))
  simp only [regWrite_ctx, readIntoT_ctx, bankOf_regWrite] at h
  simp [State.rmwDone, perform_write, h]

/-- A read-modify-write command (20_memory.md R66): the chain of its three micro-steps, how it ends, and the two accesses it
records. -/
theorem run_rmw {i : Instr} {s : State} {sel : Selector} {g : Word → Word} {c : ResultCode}
    (hm : microsOf s.cfg i = [fun _ => .read sel, fun l => .write sel (g l.t), fun _ => .result c]) (h : s.AtStep 1) :
    exec i s = .next (s.readIntoT sel 2)
      ∧ exec i (s.readIntoT sel 2) = .next (s.rmwDone sel g)
      ∧ exec i (s.rmwDone sel g) = .next ((s.rmwDone sel g).finish c)
      ∧ CommandEnded s c ((s.rmwDone sel g).finish c)
      ∧ ((s.rmwDone sel g).finish c).history
        = endEvents s c ++ .write s.ctx sel (g (s.regValue sel)) :: .read s.ctx sel (s.regValue sel) :: s.history := by
  refine ⟨?_, ?_, ?_, ?_⟩
  · rw [exec_at_step (k := 0) (m := fun _ => .read sel) h (by rw [hm]; rfl)]
    simp [perform_read, h.1]
  · rw [exec_at_step (k := 1) (m := fun l => .write sel (g l.t)) (by simp [State.AtStep, h.2]) (by simp [hm])]
    simp [State.rmwDone]
  · exact exec_at_step (k := 2) (m := fun _ => .result c) (rmwDone_atStep h) (by rw [rmwDone_cfg, hm]; rfl)
  · have hf := finish_from (s := s) (s' := s.rmwDone sel g) c (by simp [State.rmwDone, perform_write])
      (by simp [State.rmwDone, perform_write]) (rmwDone_other sel g s) (by simp [State.rmwDone, perform_write])
      (by simp [State.rmwDone, perform_write])
    exact ⟨hf.1, by rw [hf.2, rmwDone_history]⟩

/-- A priority in range, or TRUNCATE, is not rejected (30_encoding.md R102). -/
theorem prioRejected_eq_false {cfg : Config} {p : Word} (h : ¬ (cfg.prioPolicy = .reject ∧ 7 < p.toNat)) :
    prioRejected cfg p = false := by
  by_cases hq : cfg.prioPolicy = .reject
  · have hp : p.toNat ≤ 7 := Nat.not_lt.mp fun h7 => h ⟨hq, h7⟩
    simp [prioRejected, prioInRange, hp]
  · simp [prioRejected, hq]

/-- The write micro-step of every operation that has a read-modify-write (70_reset_and_hazards.md R250). -/
theorem readModifyWrite_micro {cfg : Config} {i : Instr} {k : Nat} {sel : Selector} {f : Word → Word}
    (h : ReadModifyWrite cfg i k sel f) :
    ∃ n, k = n + 1 ∧ (microsOf cfg i)[n]? = some (fun l => .write sel (f l.t)) := by
  cases h with
  | enableIRQ id q h1 h2 =>
    have hq : enableReg ⟨id.toNat, by have := cfg.nIrq.isLt; omega⟩ = q := Fin.ext h2.symm
    exact ⟨1, rfl, by simp [microsOf, microsEnableIRQ, irqInRange_of_lt h1, hq, setBits, enableMask, enableBit]⟩
  | disableIRQ id q h1 h2 =>
    have hq : enableReg ⟨id.toNat, by have := cfg.nIrq.isLt; omega⟩ = q := Fin.ext h2.symm
    exact ⟨1, rfl, by simp [microsOf, microsDisableIRQ, irqInRange_of_lt h1, hq, setBits, enableMask, enableBit]⟩
  | setPriorityIRQ id p r h1 h2 hp =>
    have hr : priorityReg ⟨id.toNat, by have := cfg.nIrq.isLt; omega⟩ = r := Fin.ext h2.symm
    exact ⟨1, rfl, by
      simp [microsOf, microsSetPriorityIRQ, irqInRange_of_lt h1, hr, prioRejected_eq_false hp, priorityOffset, prioField]⟩
  | enableFault kind bit hb => rcases hb with ⟨rfl, rfl⟩ | ⟨rfl, rfl⟩ | ⟨rfl, rfl⟩ <;> exact ⟨1, rfl, rfl⟩
  | disableFault kind bit hb => rcases hb with ⟨rfl, rfl⟩ | ⟨rfl, rfl⟩ | ⟨rfl, rfl⟩ <;> exact ⟨1, rfl, rfl⟩
  | setPriorityException kind p sel o hk hp =>
    refine ⟨1, rfl, ?_⟩
    simp only [List.mem_cons, List.not_mem_nil, or_false, Prod.mk.injEq] at hk
    rcases hk with ⟨hk, rfl, rfl⟩ | ⟨hk, rfl, rfl⟩ | ⟨hk, rfl, rfl⟩ | ⟨hk, rfl, rfl⟩ | ⟨hk, rfl, rfl⟩ | ⟨hk, rfl, rfl⟩
        | ⟨hk, rfl, rfl⟩ <;>
      simp [microsOf, microsSetPriorityException, kindOf, hk, priorityDescriptor, prioRejected_eq_false hp, prioField]
  | init p => exact ⟨4, rfl, rfl⟩
  | startBusyWait p => exact ⟨4, rfl, rfl⟩
  | start => exact ⟨1, rfl, rfl⟩
  | stop => exact ⟨1, rfl, rfl⟩

/-! Longer commands: `InProgress s t k` says that `t` is a later state of the command in progress in `s`, at its `k`-th micro-step,
with nothing changed that the end of the command looks at. -/

structure InProgress (s t : State) (k : Nat) : Prop where
  atStep : t.AtStep k
  cfg : t.cfg = s.cfg
  ctx : t.ctx = s.ctx
  handlerActive : t.handlerActive = s.handlerActive
  other : t.bankOf s.ctx.other = s.bankOf s.ctx.other
  saved : t.bank.saved = s.bank.saved
  op : t.lat.op = s.lat.op

theorem inProgress_start {s : State} {k : Nat} (h : s.AtStep k) : InProgress s s k := ⟨h, rfl, rfl, rfl, rfl, rfl, rfl⟩

theorem inProgress_read {s t : State} {k : Nat} (h : InProgress s t k) (sel : Selector) :
    InProgress s (t.perform (.read sel)) (k + 1) := by
  refine ⟨?_, ?_, ?_, ?_, ?_, ?_, ?_⟩ <;> simp only [perform_read]
  · simp [State.AtStep, h.atStep.1, h.atStep.2]
  · simp [h.cfg]
  · simp [h.ctx]
  · simp [h.handlerActive]
  · rw [← h.ctx, bankOf_other_readIntoT, h.ctx, h.other]
  · simp [h.saved]
  · simp [h.op]

theorem inProgress_write {s t : State} {k : Nat} (h : InProgress s t k) (sel : Selector) (v : Word) :
    InProgress s (t.perform (.write sel v)) (k + 1) := by
  have ho := bankOf_other_advance (t.regWrite sel v)
  simp only [regWrite_ctx, bankOf_regWrite] at ho
  refine ⟨?_, ?_, ?_, ?_, ?_, ?_, ?_⟩ <;> simp only [perform_write]
  · simp [State.AtStep, State.advance, h.atStep.1, h.atStep.2]
  · simp [h.cfg]
  · simp [h.ctx]
  · simp [h.handlerActive]
  · rw [← h.ctx, bankOf_record, ho, h.ctx, h.other]
  · simp [State.advance, h.saved]
  · simp [State.advance, h.op]

/-- The next micro-step of the command. -/
theorem inProgress_exec {s t : State} {k : Nat} {i : Instr} {m : Latches → Micro} (h : InProgress s t (k + 1))
    (hm : (microsOf s.cfg i)[k]? = some m) : exec i t = .next (t.perform (m t.lat)) :=
  exec_at_step h.atStep (by rw [h.cfg]; exact hm)

/-- Its end, seen from its start. -/
theorem inProgress_finish {s t : State} {k : Nat} (h : InProgress s t k) (c : ResultCode) :
    CommandEnded s c (t.finish c) ∧ (t.finish c).history = endEvents s c ++ t.history :=
  finish_from c h.ctx h.handlerActive h.other h.saved h.op

/-- One step of a run. -/
theorem run_next {n : Nat} {s t : State} (h : step s = .next t) : core.run (n + 1) s = core.run n t := by
  have h' : core.step s = .next t := h
  simp only [Host.Core.run, h']

end Sys2Proof.Machine
end

