-- ==== Sys2Proof/Laws/Widths.lean ====
section
/-! SUPPORT. The registers keep their widths: TRELOAD and TCURRENT hold TIMER_BITS bits (10_state.md R41, R42) and a priority word
holds what PRI_LOW_BITS lets it hold (R35), after every access, every tick and every reset. The block has no byte memory, so this
is the form its storage keeps. -/

namespace Sys2Proof.Machine

theorem truncTimer_lt (c : Config) (v : Word) : (truncTimer c v).toNat < 2 ^ c.timerBits := by
  have hpos : 0 < 2 ^ c.timerBits := Nat.two_pow_pos _
  simp only [truncTimer, BitVec.toNat_ofNat]
  exact lt_of_le_of_lt (Nat.mod_le _ _) (Nat.mod_lt _ hpos)

theorem lowLaneBits_idem (c : Config) (v : Word) : lowLaneBits c (lowLaneBits c v) = lowLaneBits c v := by
  unfold lowLaneBits
  cases c.priLowBits <;> simp only []
  rw [BitVec.and_assoc, BitVec.and_self]

/-- `WidthsSound` looks at the configuration and three registers only. -/
theorem widths_of_eq {s t : State} (h : s.WidthsSound) (hc : t.cfg = s.cfg) (hr : t.treload = s.treload)
    (hv : t.tcurrent = s.tcurrent) (hp : t.pri = s.pri) : t.WidthsSound := by
  simp only [State.WidthsSound, hc, hr, hv, hp]
  exact h

theorem regReadEffect_widths {s : State} (h : s.WidthsSound) (sel : Selector) : (s.regReadEffect sel).WidthsSound :=
  widths_of_eq h (by simp) (by simp) (by simp) (by simp)

theorem regWrite_widths {s : State} (h : s.WidthsSound) (sel : Selector) (v : Word) :
    (s.regWrite sel v).WidthsSound := by
  obtain ⟨hr, hv, hp⟩ := h
  cases sel
  case pri r =>
    refine ⟨hr, hv, fun q => ?_⟩
    simp only [regWrite_pri, Vector.get_eq_getElem, Vector.getElem_set]
    split
    · exact lowLaneBits_idem _ _
    · exact hp q
  case treload => exact ⟨truncTimer_lt _ v, hv, hp⟩
  case tcurrent => exact ⟨hr, by simp [State.regWrite], hp⟩
  all_goals exact ⟨hr, hv, hp⟩

theorem tick_widths {s : State} (h : s.WidthsSound) : s.tick.WidthsSound := by
  obtain ⟨hr, hv, hp⟩ := h
  simp only [State.tick, State.countDown]
  split_ifs with h1 h2
  · exact ⟨hr, hr, hp⟩
  · refine ⟨hr, ?_, hp⟩
    have h0 : s.tcurrent.toNat ≠ 0 := fun h => h2 (BitVec.eq_of_toNat_eq (by simpa using h))
    have hle : (s.tcurrent - 1).toNat ≤ s.tcurrent.toNat := by
      rw [BitVec.toNat_sub_of_le (by rw [BitVec.le_def]; simp; omega)]
      exact Nat.sub_le _ _
    exact lt_of_le_of_lt hle hv
  · exact ⟨hr, hv, hp⟩

/-- What every reset leaves has the widths. -/
theorem afterReset_widths (c : Config) (n : Nat) : (State.afterReset c n).WidthsSound := by
  refine ⟨truncTimer_lt c _, truncTimer_lt c _, fun r => ?_⟩
  simp only [State.afterReset, Vector.get_eq_getElem, Vector.getElem_replicate, lowLaneBits]
  cases c.priLowBits <;> simp

end Sys2Proof.Machine
end

