-- ==== Sys2Proof/Tests/Slice0.lean ====
section
/-! SUPPORT. Tests of single steps on small states, with expected values from spec/95_test_vectors.md (the vector is named in each
comment), and, for every obligation that has hypotheses, a state and operands that meet them together. -/

namespace Sys2Proof.Tests

open Sys2Proof Sys2Proof.Machine

/-! The states the tests start from. -/

/-- The parameter values of 95_test_vectors.md, with `DIS_READ_MODE = ZERO` and `TICKS_PER_MS = 16000`. -/
def cfgZero : Config where
  nIrq := 139
  ticksPerMs := 16000
  timerBits := 24
  disReadMode := .zero
  priLowBits := .stored
  prioPolicy := .truncate
  shcMemBit := 16
  shcBusBit := 17
  shcUsgBit := 18
  tctrlEnableBit := 0
  tctrlTickIntBit := 1
  tctrlClkSrcBit := 2
  tctrlCountFlagBit := 16
  svcImm := 0
  addrMap := defaultAddrMap

def cfgState : Config := { cfgZero with disReadMode := .enableState }
def cfgReject : Config := { cfgZero with prioPolicy := .reject }
def cfgRaz : Config := { cfgZero with priLowBits := .razWi }
def cfgOneTick : Config := { cfgZero with ticksPerMs := 1 }

/-- The state after reset with the three drawn values 0. -/
def quiet (cfg : Config) : State := { State.afterReset cfg 0 with clkSrc := false, treload := 0, tcurrent := 0 }

/-- The latches of `i` with `USTEP = k` and `T = t`. -/
def latches (i : Instr) (k : Nat) (t : Word) : Latches :=
  { op := i.opcode, a := i.fieldA, b := i.fieldB, t := t, f := none, ustep := k, calling := none }

/-- `i` in progress in the normal context, at its `k`-th micro-step, `T = t`. -/
def busy (cfg : Config) (i : Instr) (k : Nat) (t : Word) : State := (quiet cfg).setLat (latches i k t)

/-- The next state, where there is one. -/
def after (o : Host.Outcome State Fault Refusal) (s : State) : State :=
  match o with
  | .next t => t
  | .fault _ => s
  | .refused _ => s

/-- The state one step of `i` leaves. -/
def ran (i : Instr) (s : State) : State := after (exec i s) s

/-! WellFormed. -/

/-- R47: `some 0` is no callback reference. -/
theorem test_wellFormed_some_zero : (Instr.setCallBack (some 0)).wellFormed = false := by decide
theorem test_wellFormed_none : (Instr.setCallBack none).wellFormed = true := by decide

/-! Decoding: one word for each constructor, written out from the layout of R90 and the opcodes of R93. -/

theorem test_decode_enableIRQ : decode 0x012500000000 = .ok (.enableIRQ 37) := by decide -- D-1
theorem test_decode_disableIRQ : decode 0x028A00000000 = .ok (.disableIRQ 138) := by decide -- R109
theorem test_decode_setPriorityIRQ : decode 0x0301FFFFFFFF = .ok (.setPriorityIRQ 1 0xFFFFFFFF) := by decide -- D-5
theorem test_decode_enableException : decode 0x040300000000 = .ok (.enableException 3) := by decide -- R109
theorem test_decode_disableException : decode 0x050A00000000 = .ok (.disableException 10) := by decide -- R109
theorem test_decode_setPriorityException : decode 0x060900000002 = .ok (.setPriorityException 9 2) := by decide -- R109
theorem test_decode_init : decode 0x070000000419 = .ok (.init 1049) := by decide -- V69
theorem test_decode_startBusyWait : decode 0x08000000000A = .ok (.startBusyWait 10) := by decide -- V66
theorem test_decode_setCallBack : decode 0x090000000000 = .ok (.setCallBack none) := by decide -- D-9
theorem test_decode_handler : decode 0x0AFFFFFFFFFF = .ok .handler := by decide -- D-3
theorem test_decode_start : decode 0x0B0000000000 = .ok .start := by decide -- R109
theorem test_decode_stop : decode 0x0C0000000000 = .ok .stop := by decide -- R109
theorem test_decode_deInit : decode 0x0D0000000000 = .ok .deInit := by decide -- R109

/-- D-2: `b` is ignored by EnableIRQ. -/
theorem test_decode_ignored : decode 0x0125DEADBEEF = decode 0x012500000000 := by decide

/-- D-6, D-7, D-8: reserved opcodes. -/
theorem test_decode_reserved :
    decode 0 = .error (.reservedOpcode 0) ∧ decode 0x0E0000000000 = .error (.reservedOpcode 0x0E)
      ∧ decode 0xFFFFFFFFFFFF = .error (.reservedOpcode 0xFF) := by decide

theorem test_decodeTableWord :
    decodeTableWord 48 0x038A00000006 = some (.setPriorityIRQ 138 6) ∧ decodeTableWord 48 0 = none := by decide

/-- R109: a text, its word, and the text again. -/
theorem test_text :
    assemble "SetPriorityException(SYSTICK, 2)" = some 0x060900000002
      ∧ Instr.text (.setPriorityException 9 2) = "SetPriorityException(SYSTICK, 2)" := by decide

theorem test_text_none : assemble "SetCallBack(none)" = some 0x090000000000 ∧ assemble "EnableIRQ(256)" = none := by decide

/-! The instructions, one step each. -/

/-- V8: the write of EnableIRQ(40), T = 0x20. -/
theorem test_enableIRQ :
    (ran (.enableIRQ 40) ({ busy cfgZero (.enableIRQ 40) 2 0x20 with ien := 1#160 <<< 37 })).regValue (.en 1) = 0x120 := by
  decide

/-- V10: identifier 160 makes no access; result 1. -/
theorem test_enableIRQ_out_of_range :
    (ran (.enableIRQ 160) (busy cfgZero (.enableIRQ 160) 1 0)).history = [.result .normal 1 .errId] := by decide

/-- IEN[37] = IEN[40] = 1, the start of V12 and V13. -/
def twoEnabled : BitVec 160 := 1#160 <<< 37 ||| 1#160 <<< 40

/-- V12: the write of DisableIRQ(37) under ZERO. -/
theorem test_disableIRQ_zero :
    (ran (.disableIRQ 37) ({ busy cfgZero (.disableIRQ 37) 2 0 with ien := twoEnabled })).regValue (.en 1) = 0x100 := by
  decide

/-- V13: the read of DisableIRQ(37) under ENABLE_STATE. -/
theorem test_disableIRQ_state :
    (ran (.disableIRQ 37) ({ busy cfgState (.disableIRQ 37) 1 0 with ien := twoEnabled })).lat.t = 0x120 := by decide

/-- V31: the write of SetPriorityIRQ(3, 0xFFFFFFFF). -/
theorem test_setPriorityIRQ :
    (ran (.setPriorityIRQ 3 0xFFFFFFFF) (busy cfgZero (.setPriorityIRQ 3 0xFFFFFFFF) 2 0x12345678)).regValue (.pri 0)
      = 0xF2345678 := by decide

/-- V33: under REJECT a priority of 8 makes no access; result 2. -/
theorem test_setPriorityIRQ_reject :
    (ran (.setPriorityIRQ 1 8) (busy cfgReject (.setPriorityIRQ 1 8) 1 0)).history = [.result .normal 3 .prioRange] := by
  decide

/-- V45: the write of EnableException(BUS_FAULT). -/
theorem test_enableException_bus :
    (ran (.enableException 4) (busy cfgZero (.enableException 4) 2 0x00010000)).shc = 0x00030000 := by decide

/-- V49c: EnableException(SYSTICK) does nothing; result 4. -/
theorem test_enableException_systick :
    (ran (.enableException 9) (busy cfgZero (.enableException 9) 1 0)).history = [.result .normal 4 .nopUnsupported] := by
  decide

/-- V48: the write of DisableException(MEM_FAULT), SHC all ones. -/
theorem test_disableException_mem :
    (ran (.disableException 3) (busy cfgZero (.disableException 3) 2 0xFFFFFFFF)).shc = 0xFFFEFFFF := by decide

/-- V42: DisableException(HARD_FAULT) sets FMASK and leaves IMASK. -/
theorem test_disableException_hard :
    (ran (.disableException 2) (busy cfgZero (.disableException 2) 1 0)).fmask = true
      ∧ (ran (.disableException 2) (busy cfgZero (.disableException 2) 1 0)).imask = false := by decide

/-- V54: SetPriorityException(SVC, 4) reads SYSPRI2, not SYSPRI1. -/
theorem test_setPriorityException_reads :
    (ran (.setPriorityException 6 4) ({ busy cfgZero (.setPriorityException 6 4) 1 0 with
      syspri1 := 0x006000E0, syspri2 := 0x00FFFFFF })).lat.t = 0x00FFFFFF := by decide

/-- V52: the write of SetPriorityException(BUS_FAULT, 0), SYSPRI1 all ones. -/
theorem test_setPriorityException_writes :
    (ran (.setPriorityException 4 0) (busy cfgZero (.setPriorityException 4 0) 2 0xFFFFFFFF)).syspri1 = 0xFFFF1FFF := by
  decide

/-- V69: the second micro-step of Init(1049) keeps 24 bits. -/
theorem test_init_reload : (ran (.init 1049) (busy cfgZero (.init 1049) 2 0)).treload = 0x00001A7F := by decide

/-- V67: the fifth micro-step of Init writes 7. -/
theorem test_init_mode : (ran (.init 10) (busy cfgZero (.init 10) 5 0)).regValue .tctrl = 0x00000007 := by decide

/-- V66: a poll that sees the flag reads 0x00010005, consumes the flag and leaves the loop. -/
theorem test_startBusyWait_sees :
    (ran (.startBusyWait 10) ({ busy cfgZero (.startBusyWait 10) 6 0 with
      enable := true, clkSrc := true, countFlag := true })).lat = latches (.startBusyWait 10) 7 0x00010005 := by decide

/-- V66: a poll that does not polls again. -/
theorem test_startBusyWait_polls :
    (ran (.startBusyWait 10) ({ busy cfgZero (.startBusyWait 10) 6 0 with enable := true, clkSrc := true })).lat
      = latches (.startBusyWait 10) 6 0x00000005 := by decide

/-- V72: the second SetCallBack wins. -/
theorem test_setCallBack :
    (ran (.setCallBack (some 0x20000201)) ({ busy cfgZero (.setCallBack (some 0x20000201)) 1 0 with
      cb := some 0x20000101 })).cb = some 0x20000201 := by decide

/-- V70: the second micro-step of Handler calls what the first loaded. -/
theorem test_handler_calls :
    (ran .handler ((quiet cfgZero).setLat { latches .handler 2 0 with f := some 0x20000101 })).history
      = [.call 0x20000101] := by decide

/-- V71: with nothing loaded it ends with 3. -/
theorem test_handler_none :
    (ran .handler (busy cfgZero .handler 2 0)).history = [.result .normal 0x0A .nopNoCallback] := by decide

/-- V75: the write of Start, T = 6. -/
theorem test_start : (ran .start (busy cfgZero .start 2 6)).regValue .tctrl = 7 := by decide

/-- V76: the read of Stop after an expiry, and its write, which ignores bit 16. -/
theorem test_stop_read :
    (ran .stop ({ busy cfgZero .stop 1 0 with enable := true, tickInt := true, clkSrc := true, countFlag := true })).lat.t
      = 0x00010007 := by decide
theorem test_stop_write : (ran .stop (busy cfgZero .stop 2 0x00010007)).regValue .tctrl = 0x00000006 := by decide

/-- V78: the fourth micro-step of DeInit empties the slot. -/
theorem test_deInit :
    (ran .deInit ({ busy cfgZero .deInit 4 0 with cb := some 0x20000101 })).cb = none := by decide

/-- D-7: a reserved opcode ends with 5. -/
theorem test_reserved :
    (after ((quiet cfgZero).setLat { Latches.idle with op := 0x0E, ustep := 1 }).runContext (quiet cfgZero)).history
      = [.result .normal 0x0E .errOpcode] := by decide

/-! The other agents. -/

/-- V85: a tick from a drawn count. -/
theorem test_tick_counts : ({ quiet cfgZero with enable := true, treload := 3, tcurrent := 5 } : State).tick.tcurrent = 4 := by
  decide

/-- V80: the fourth tick. -/
theorem test_tick_expires :
    ({ quiet cfgZero with enable := true, tickInt := true, treload := 3, tcurrent := 1 } : State).tick.tickPending = true := by
  decide

/-- P4 schedule A, step d: the dispatch between two micro-steps keeps bank N's latches. -/
theorem test_dispatch :
    ({ busy cfgZero (.setPriorityIRQ 0 3) 2 0 with tickPending := true } : State).dispatch.ctx = .interrupt
      ∧ ({ busy cfgZero (.setPriorityIRQ 0 3) 2 0 with tickPending := true } : State).dispatch.bankN.cur
        = latches (.setPriorityIRQ 0 3) 2 0 := by decide

/-- P4 schedule A, step 1.2: the stale T overwrites the callback's field. -/
theorem test_stale_write :
    (ran (.setPriorityIRQ 0 3) ({ busy cfgZero (.setPriorityIRQ 0 3) 2 0 with
      pri := (Vector.replicate 35 0).set 0 0x0000A000 })).regValue (.pri 0) = 0x00000060 := by decide

/-- P5, step h.2: the empty handler ends with 3 and returns. -/
theorem test_handler_returns :
    (ran .handler (({ quiet cfgZero with ctx := .interrupt, handlerActive := true } : State).setLat
      (latches .handler 2 0))).ctx = .normal := by decide

/-- R103, R41: V63, V65, V65a, V65c and V65d. -/
theorem test_reload :
    truncTimer cfgZero (reload32 cfgZero 1048) = 0xFFDBFF ∧ truncTimer cfgZero (reload32 cfgZero 0) = 0xFFFFFF
      ∧ truncTimer cfgZero (reload32 cfgZero 268436) = 0x0021FF ∧ truncTimer cfgOneTick (reload32 cfgOneTick 1) = 0
      ∧ truncTimer cfgOneTick (reload32 cfgOneTick 0x01000001) = 0 := by decide

/-- R71, R64: the byte view of a register, which no rule reads; PRI(0) = 0x0000A060 (V21), lane 1. -/
theorem test_surfaceByte :
    ({ quiet cfgZero with pri := (Vector.replicate 35 0).set 0 0x0000A060 } : State).surfaceByte 0xE000E401 = some 0xA0 := by
  decide

/-- The first step after reset makes the first micro-step of the placed word (V4). -/
theorem test_first_step : ∃ t, step (State.reset.withFetchWord 48 0x012500000000) = .next t
    ∧ t.history = [.read .normal (.en 1) 0] := ⟨_, rfl, rfl⟩

/-! The hypotheses of the obligations: for each, a state and operands that meet them, at the boundary of each clause. -/

/-- `s` with these inputs. -/
def given (xs : List Input) (s : State) : State := { s with inputs := xs }

/-- The normal context's `Handler` waits in CallOut for 0x20000101. -/
def waiting : State :=
  (quiet cfgZero).setLat { latches .handler 2 0 with f := some 0x20000101, calling := some 0x20000101 }

/-- The interrupt context, whose `Handler` is at its `k`-th micro-step. -/
def inHandler (k : Nat) : State :=
  ({ quiet cfgZero with ctx := .interrupt, handlerActive := true } : State).setLat (latches .handler k 0)

/-- A busy-wait in its poll loop with reload `r`. -/
def polling (r : Word) : State :=
  { busy cfgZero (.startBusyWait 10) 6 0 with enable := true, clkSrc := true, treload := r }

/-- The timer counts with reload 3. -/
def counting : State := { quiet cfgZero with enable := true, tickInt := true, treload := 3 }

/-- Every condition of the dispatch step holds. -/
def pending : State := { quiet cfgZero with tickPending := true }

theorem witness_DecodeOfEncodeIsTheInstruction :
    (Instr.setCallBack (some 1)).wellFormed = true ∧ (Instr.enableIRQ 255).wellFormed = true := by decide

theorem witness_DecodeReadsExactlyTheListedFields :
    decode 0x0125DEADBEEF = .ok (.enableIRQ 37) ∧ decode 0x07FF0000000A = .ok (.init 10) := by decide

theorem witness_IgnoredFieldsDoNotMatter :
    (CommandWord.op 0x0125DEADBEEF = CommandWord.op 0x012500000000 ∧ CommandWord.a 0x0125DEADBEEF = 0x25
        ∧ CommandWord.a 0x012500000000 = 0x25 ∧ (CommandWord.op 0x0125DEADBEEF).toNat ∉ [3, 6, 7, 8, 9])
      ∧ (CommandWord.op 0x07FF0000000A = CommandWord.op 0x07000000000A ∧ (CommandWord.op 0x07FF0000000A).toNat ∉ [1, 2, 3, 4, 5, 6]
        ∧ CommandWord.b 0x07FF0000000A = CommandWord.b 0x07000000000A) := by decide

theorem witness_IdentifierEncoder :
    (138#8).toNat < cfgZero.nIrq.val ∧ cfgZero.nIrq.val ≤ (139#8).toNat := by decide

theorem witness_InsertFieldTouchesOnlyItsThreeBits : 5 ∈ [5, 13, 21, 29] ∧ 29 ∈ [5, 13, 21, 29] := by decide

/-- ADDR_MAP with every register at 4 times its selector number: another map than the default. -/
def cfgPacked : Config := { cfgZero with addrMap := ⟨((List.range 52).map (4 * ·)).toArray, rfl⟩ }

theorem witness_SelectorsAreNumberedWithoutRepeats :
    (quiet cfgZero).cfg.addrMapWellFormed = true ∧ (quiet cfgPacked).cfg.addrMapWellFormed = true
      ∧ selectorAddress cfgPacked .tcurrent = 204 ∧ 51 < 52 ∧ 3 < 4 := by
  decide

theorem witness_OnlyTheTctrlReadHasASideEffect : Selector.treload ≠ .tctrl ∧ Selector.tctrl = .tctrl := by decide

theorem witness_EnableAndDisableRegistersAreViewsOfIen :
    (quiet cfgZero).cfg.disReadMode = .zero ∧ (quiet cfgState).cfg.disReadMode = .enableState := by decide

theorem witness_ReadAfterWriteOfTheSameRegister :
    (quiet cfgZero).cfg.priLowBits = .stored ∧ (quiet cfgRaz).cfg.priLowBits = .razWi
      ∧ (quiet cfgZero).cfg.timerBits ≤ 32 := by decide

theorem witness_TctrlWordShowsItsFields :
    (quiet cfgZero).cfg.wellFormed = true ∧ 31 ≠ cfgZero.tctrlEnableBit.val ∧ 31 ≠ cfgZero.tctrlTickIntBit.val
      ∧ 31 ≠ cfgZero.tctrlClkSrcBit.val ∧ 31 ≠ cfgZero.tctrlCountFlagBit.val := by decide

/-- For `a = EN(0)`, `b = DIS(1)`, and for `a = TCTRL`, `b = TCURRENT`. -/
theorem witness_AWriteLeavesOtherRegistersAlone :
    (Selector.en 0 ≠ .dis 1 ∧ (∀ r, ¬ (Selector.en 0 = .en r ∧ Selector.dis 1 = .dis r)
        ∧ ¬ (Selector.en 0 = .dis r ∧ Selector.dis 1 = .en r)) ∧ ¬ (Selector.en 0 = .tcurrent ∧ Selector.dis 1 = .tctrl))
      ∧ (Selector.tctrl ≠ .tcurrent ∧ (∀ r, ¬ (Selector.tctrl = .en r ∧ Selector.tcurrent = .dis r)
        ∧ ¬ (Selector.tctrl = .dis r ∧ Selector.tcurrent = .en r))
        ∧ ¬ (Selector.tctrl = .tcurrent ∧ Selector.tcurrent = .tctrl)) := by decide

theorem witness_AcceptanceLoadsTheLatches :
    (given [.present 0x012500000000] (quiet cfgZero)).inputs = [.present 0x012500000000]
      ∧ (given [.present 0x012500000000] (quiet cfgZero)).lat.ustep = 0
      ∧ (given [.present 0x012500000000] (quiet cfgZero)).lat.calling = none := by decide

theorem witness_StepRunsTheDecodedInstruction :
    (busy cfgZero .start 1 0).canAccept = false ∧ decode (busy cfgZero .start 1 0).latchedWord = .ok .start
      ∧ (busy cfgZero .start 1 0).inputs = [] ∧ (given [.micro] (busy cfgZero .start 1 0)).inputs = [.micro]
      ∧ (given [.present 0] (busy cfgZero .start 1 0)).inputs = [.present 0]
      ∧ (given [.callReturn] (busy cfgZero .start 1 0)).inputs = [.callReturn] := by decide

theorem witness_AnIdleOrCallingBankWaits :
    (quiet cfgZero).canAccept = true ∧ (quiet cfgZero).inputs = [] ∧ waiting.canAccept = true
      ∧ (given [.micro] waiting).inputs = [.micro] := by decide

/-- The read of Start, and the end of the dispatched Handler, which records two events. -/
theorem witness_AMicroStepRecordsOneEvent :
    exec .start (busy cfgZero .start 1 0) = .next (ran .start (busy cfgZero .start 1 0))
      ∧ (busy cfgZero .start 1 0).canAccept = false
      ∧ exec .handler (inHandler 2) = .next (ran .handler (inHandler 2)) ∧ (inHandler 2).canAccept = false :=
  ⟨rfl, rfl, rfl, rfl⟩

theorem witness_ReservedOpcodesEndWithErrOpcode :
    CommandWord.op 0x00FFFFFFFFFF = 0 ∧ 0x0E ≤ (CommandWord.op 0x0E0000000000).toNat
      ∧ (given [.present 0x0E0000000000] (quiet cfgZero)).inputs = [.present 0x0E0000000000]
      ∧ (given [.present 0x0E0000000000] (quiet cfgZero)).canAccept = true := by decide

theorem witness_EnableIrqSetsExactlyItsBit :
    (busy cfgZero (.enableIRQ 138) 1 0).AtStep 1 ∧ (138#8).toNat < (busy cfgZero (.enableIRQ 138) 1 0).cfg.nIrq.val := by
  decide

theorem witness_DisableIrqClearsItsBit :
    (busy cfgZero (.disableIRQ 138) 1 0).AtStep 1 ∧ (138#8).toNat < (busy cfgZero (.disableIRQ 138) 1 0).cfg.nIrq.val
      ∧ (busy cfgZero (.disableIRQ 138) 1 0).cfg.disReadMode = .zero
      ∧ (busy cfgState (.disableIRQ 138) 1 0).AtStep 1
      ∧ (busy cfgState (.disableIRQ 138) 1 0).cfg.disReadMode = .enableState := by decide

/-- Priority 8 under TRUNCATE, and 7 under REJECT. -/
theorem witness_SetPriorityIrqWritesExactlyItsField :
    ((busy cfgZero (.setPriorityIRQ 138 8) 1 0).AtStep 1 ∧ (busy cfgZero (.setPriorityIRQ 138 8) 1 0).WidthsSound
        ∧ (138#8).toNat < cfgZero.nIrq.val ∧ ¬ (cfgZero.prioPolicy = .reject ∧ 7 < (8#32).toNat))
      ∧ ((busy cfgReject (.setPriorityIRQ 0 7) 1 0).AtStep 1 ∧ (busy cfgReject (.setPriorityIRQ 0 7) 1 0).WidthsSound
        ∧ (0#8).toNat < cfgReject.nIrq.val ∧ ¬ (cfgReject.prioPolicy = .reject ∧ 7 < (7#32).toNat)) := by decide

theorem witness_OutOfRangeIdentifiersAreRejected :
    (busy cfgZero (.enableIRQ 139) 1 0).AtStep 1 ∧ (busy cfgZero (.enableIRQ 139) 1 0).cfg.nIrq.val ≤ (139#8).toNat := by
  decide

theorem witness_RejectPolicyMakesNoAccess :
    (busy cfgReject (.setPriorityIRQ 3 8) 1 0).AtStep 1 ∧ (busy cfgReject (.setPriorityIRQ 3 8) 1 0).cfg.prioPolicy = .reject
      ∧ 7 < (8#32).toNat ∧ (3#8).toNat < cfgReject.nIrq.val ∧ (3#8).toNat ∈ [3, 4, 5, 6, 7, 8, 9]
      ∧ (9#8).toNat ∈ [3, 4, 5, 6, 7, 8, 9] := by decide

/-- The premises of IrqOperationsAreIdempotent for the three micro-steps of `i`, made twice. -/
def RunTwice (i : Instr) (cfg : Config) : Prop :=
  let s := busy cfg i 1 0
  let t := ran i (ran i (ran i s))
  let u := { t with bankN := s.bankN }
  s.AtStep 1 ∧ exec i s = .next (ran i s) ∧ exec i (ran i s) = .next (ran i (ran i s)) ∧ exec i (ran i (ran i s)) = .next t
    ∧ u.AtStep 1 ∧ u.cfg = s.cfg ∧ u.ien = t.ien ∧ u.pri = t.pri
    ∧ SameSystemRegisters t u ∧ SameTimer t u ∧ u.cb = t.cb ∧ SameMasks t u ∧ u.regValue .shc = t.regValue .shc
    ∧ exec i u = .next (ran i u) ∧ exec i (ran i u) = .next (ran i (ran i u))
    ∧ exec i (ran i (ran i u)) = .next (ran i (ran i (ran i u)))

/-- EnableIRQ, DisableIRQ under each DIS_READ_MODE, and SetPriorityIRQ. -/
theorem witness_IrqOperationsAreIdempotent :
    (37#8).toNat < cfgZero.nIrq.val ∧ ¬ (cfgZero.prioPolicy = .reject ∧ 7 < (8#32).toNat)
      ∧ (37#8).toNat < cfgState.nIrq.val ∧ ¬ (cfgState.prioPolicy = .reject ∧ 7 < (8#32).toNat)
      ∧ RunTwice (.enableIRQ 37) cfgZero ∧ RunTwice (.disableIRQ 37) cfgZero ∧ RunTwice (.disableIRQ 37) cfgState
      ∧ RunTwice (.setPriorityIRQ 37 8) cfgZero := by
  refine ⟨by decide, by decide, by decide, by decide, ?_, ?_, ?_, ?_⟩ <;>
    exact ⟨⟨rfl, rfl⟩, rfl, rfl, rfl, ⟨rfl, rfl⟩, rfl, rfl, rfl, ⟨rfl, rfl, rfl, rfl⟩, ⟨rfl, rfl, rfl, rfl, rfl, rfl⟩, rfl,
      ⟨rfl, rfl⟩, rfl, rfl, rfl, rfl⟩

theorem witness_FaultKindsSetAndClearExactlyTheirShcBit :
    (busy cfgZero (.enableException 3) 1 0).AtStep 1 ∧ cfgZero.shcMemBit = 16 ∧ cfgZero.shcBusBit = 17
      ∧ cfgZero.shcUsgBit = 18 ∧ (busy cfgZero (.disableException 5) 1 0).AtStep 1 := by decide

theorem witness_TheMaskKindsDriveTheirOwnMask :
    (busy cfgZero (.enableException 2) 1 0).AtStep 1 ∧ (busy cfgZero (.disableException 10) 1 0).AtStep 1 := by decide

theorem witness_EnablingSvcRaisesTheEventOnce : (busy cfgZero (.enableException 6) 1 0).AtStep 1 := by decide

theorem witness_KindsWithoutTheControlDoNothing :
    (busy cfgZero (.enableException 9) 1 0).AtStep 1 ∧ (9#8).toNat ∈ [0, 1, 7, 8, 9] ∧ (6#8).toNat ∈ [0, 1, 6, 7, 8, 9]
      ∧ (10#8).toNat ∈ [0, 1, 2, 10] := by decide

theorem witness_ReservedKindsAreRejected :
    (busy cfgZero (.enableException 11) 1 0).AtStep 1 ∧ 11 ≤ (11#8).toNat ∧ 11 ≤ (255#8).toNat := by decide

theorem witness_SetPriorityExceptionWritesExactlyItsField :
    (busy cfgZero (.setPriorityException 9 10) 1 0).AtStep 1
      ∧ ((9#8).toNat, Selector.syspri3, 29) ∈ [(3, Selector.syspri1, 5), (4, .syspri1, 13), (5, .syspri1, 21),
        (6, .syspri2, 29), (7, .syspri3, 5), (8, .syspri3, 21), (9, .syspri3, 29)]
      ∧ ¬ (cfgZero.prioPolicy = .reject ∧ 7 < (10#32).toNat) := by decide

theorem witness_InitArmsTheTimer : (busy cfgZero (.init 0) 1 0).AtStep 1 := by decide

/-- Products 1 and 2^24 fit; 0 and 2^24 + 1 do not. -/
theorem witness_TheReloadIsThePeriodExactlyWhenItFits :
    cfgOneTick.wellFormed = true ∧ (1#32).toNat * cfgOneTick.ticksPerMs.toNat = 1
      ∧ (16777216#32).toNat * cfgOneTick.ticksPerMs.toNat = 2 ^ cfgOneTick.timerBits
      ∧ (16777217#32).toNat * cfgOneTick.ticksPerMs.toNat = 2 ^ cfgOneTick.timerBits + 1 := by decide

/-- A reload that is not 0, and one that truncates to 0. -/
theorem witness_BusyWaitCompletesAfterThePeriod :
    (busy cfgZero (.startBusyWait 10) 1 0).cfg.wellFormed = true ∧ (busy cfgZero (.startBusyWait 10) 1 0).AtStep 1
      ∧ truncTimer cfgZero (10 * cfgZero.ticksPerMs - 1) ≠ 0
      ∧ (busy cfgOneTick (.startBusyWait 1) 1 0).cfg.wellFormed = true ∧ (busy cfgOneTick (.startBusyWait 1) 1 0).AtStep 1
      ∧ truncTimer cfgOneTick (1 * cfgOneTick.ticksPerMs - 1) = 0 := by decide

theorem witness_APollWithoutTheFlagPollsAgain :
    (polling 3).cfg.wellFormed = true ∧ (polling 3).AtStep 6 ∧ (polling 3).countFlag = false := by decide

/-- Reload 1, the least, with one tick between two polls. -/
theorem witness_BusyWaitDoesNotReturnEarly :
    (polling 1).cfg.wellFormed = true ∧ (polling 1).AtStep 6 ∧ decode (polling 1).latchedWord = .ok (.startBusyWait 10)
      ∧ (polling 1).enable = true ∧ (polling 1).tcurrent = 0 ∧ (polling 1).countFlag = false ∧ (polling 1).treload ≠ 0
      ∧ (∀ x ∈ [Input.micro, .tick, .micro], TickOrMicro x = true)
      ∧ [Input.micro, .tick, .micro].count .tick ≤ (polling 1).treload.toNat := by decide

theorem witness_BusyWaitWithZeroReloadNeverEnds :
    (polling 0).cfg.wellFormed = true ∧ (polling 0).AtStep 6 ∧ decode (polling 0).latchedWord = .ok (.startBusyWait 10)
      ∧ (polling 0).tcurrent = 0 ∧ (polling 0).countFlag = false ∧ (polling 0).treload = 0
      ∧ ∀ x ∈ [Input.tick, .micro], TickOrMicro x = true := by decide

theorem witness_SetCallBackReplacesTheSlot :
    (busy cfgZero (.setCallBack (some 1)) 1 0).AtStep 1 ∧ (some 1 : Option Reference) ≠ some 0
      ∧ (none : Option Reference) ≠ some 0 := by decide

theorem witness_HandlerWithAnEmptySlotMakesNoCall :
    (busy cfgZero .handler 1 0).AtStep 1 ∧ (busy cfgZero .handler 1 0).cb = none := by decide

theorem witness_HandlerCallsTheCallbackOnceAndWaits :
    ({ busy cfgZero .handler 1 0 with cb := some 0x20000101 } : State).AtStep 1
      ∧ ({ busy cfgZero .handler 1 0 with cb := some 0x20000101 } : State).cb = some 0x20000101 := by decide

theorem witness_TheCallbackReturnResumesTheHandler :
    (given [.callReturn] waiting).inputs = [.callReturn] ∧ (given [.callReturn] waiting).canAccept = true
      ∧ waiting.lat.calling = some 0x20000101 ∧ (given [.callReturn] (quiet cfgZero)).canAccept = true
      ∧ (quiet cfgZero).lat.calling = none := by decide

/-- The callback presents a reserved word; the state it leaves runs to its result. -/
theorem witness_ACallbackCommandGivesTheHandlerBack :
    let s := given [.present 0x0E0000000000] waiting
    let v := after (step s) s
    s.inputs = [.present 0x0E0000000000] ∧ s.lat.calling = some 0x20000101
      ∧ exec (.enableIRQ 139) v = .next (ran (.enableIRQ 139) v)
      ∧ (ran (.enableIRQ 139) v).history = .result v.ctx v.lat.op .errId :: v.history
      ∧ v.reservedOpcode = .next (after v.reservedOpcode v)
      ∧ (after v.reservedOpcode v).history = .result v.ctx v.lat.op .errOpcode :: v.history :=
  ⟨rfl, rfl, rfl, rfl, rfl, rfl⟩

theorem witness_StartSetsOnlyEnable :
    (busy cfgZero .start 1 0).cfg.wellFormed = true ∧ (busy cfgZero .start 1 0).AtStep 1 := by decide

theorem witness_StopClearsOnlyEnable :
    (busy cfgZero .stop 1 0).cfg.wellFormed = true ∧ (busy cfgZero .stop 1 0).AtStep 1 := by decide

theorem witness_DeInitZeroesTheTimerAndTheSlot : (busy cfgZero .deInit 1 0).AtStep 1 := by decide

/-- For the last clause of the three frames: a micro-step of each family that does not end its command. -/
theorem notEnded_read :
    ((busy cfgZero (.enableIRQ 0) 1 0).canAccept = false
        ∧ NotEnded (busy cfgZero (.enableIRQ 0) 1 0) (ran (.enableIRQ 0) (busy cfgZero (.enableIRQ 0) 1 0)))
      ∧ ((busy cfgZero (.enableException 3) 1 0).canAccept = false
        ∧ NotEnded (busy cfgZero (.enableException 3) 1 0) (ran (.enableException 3) (busy cfgZero (.enableException 3) 1 0)))
      ∧ ((busy cfgZero .start 1 0).canAccept = false
        ∧ NotEnded (busy cfgZero .start 1 0) (ran .start (busy cfgZero .start 1 0))) := by
  have key : ∀ (s t : State) (c : Ctx) (sel : Selector) (w : Word), s.history = [] → t.history = [.read c sel w] →
      NotEnded s t := fun s t c sel w hs ht code tail h => by
    rw [hs, ht] at h
    cases tail <;> simp at h
  exact ⟨⟨rfl, key _ _ .normal (.en 0) 0 rfl (by decide)⟩, ⟨rfl, key _ _ .normal .shc 0 rfl (by decide)⟩,
    ⟨rfl, key _ _ .normal .tctrl 0 rfl (by decide)⟩⟩

theorem witness_IrqOperationFrame :
    exec (.disableIRQ 138) (busy cfgZero (.disableIRQ 138) 2 0)
        = .next (ran (.disableIRQ 138) (busy cfgZero (.disableIRQ 138) 2 0))
      ∧ exec (.enableIRQ 0) (busy cfgZero (.enableIRQ 0) 2 0) = .next (ran (.enableIRQ 0) (busy cfgZero (.enableIRQ 0) 2 0))
      ∧ exec (.setPriorityIRQ 5 1) (busy cfgZero (.setPriorityIRQ 5 1) 2 0)
        = .next (ran (.setPriorityIRQ 5 1) (busy cfgZero (.setPriorityIRQ 5 1) 2 0)) := ⟨rfl, rfl, rfl⟩

/-- With a change of SYSPRI1, of a mask, and of SHC. -/
theorem witness_ExceptionOperationFrame :
    exec (.setPriorityException 3 7) (busy cfgZero (.setPriorityException 3 7) 2 0)
        = .next (ran (.setPriorityException 3 7) (busy cfgZero (.setPriorityException 3 7) 2 0))
      ∧ exec (.enableException 10) (busy cfgZero (.enableException 10) 1 0)
        = .next (ran (.enableException 10) (busy cfgZero (.enableException 10) 1 0))
      ∧ (ran (.setPriorityException 3 7) (busy cfgZero (.setPriorityException 3 7) 2 0)).syspri1 ≠ (quiet cfgZero).syspri1
      ∧ (ran (.enableException 3) (busy cfgZero (.enableException 3) 2 0)).shc ≠ (quiet cfgZero).shc :=
  ⟨rfl, rfl, by decide, by decide⟩

theorem witness_TimerOperationFrame :
    exec .handler waiting = .next (ran .handler waiting) ∧ 7 ≤ Instr.handler.opcode.toNat
      ∧ exec .deInit (busy cfgZero .deInit 4 0) = .next (ran .deInit (busy cfgZero .deInit 4 0)) :=
  ⟨rfl, by decide, rfl⟩

theorem witness_OnlyTwoKindsWriteTheMasks :
    exec (.disableException 10) (busy cfgZero (.disableException 10) 1 0)
        = .next (ran (.disableException 10) (busy cfgZero (.disableException 10) 1 0))
      ∧ (ran (.disableException 10) (busy cfgZero (.disableException 10) 1 0)).imask ≠ (quiet cfgZero).imask
      ∧ (ran (.disableException 2) (busy cfgZero (.disableException 2) 1 0)).fmask ≠ (quiet cfgZero).fmask :=
  ⟨rfl, by decide, by decide⟩

/-- The end of a dispatched Handler (two events), and a reserved opcode. -/
theorem witness_ResultCodesOfEachOperation :
    (inHandler 2).canAccept = false ∧ exec .handler (inHandler 2) = .next (ran .handler (inHandler 2))
      ∧ (ran .handler (inHandler 2)).history
        = [.handlerReturn] ++ .result (inHandler 2).ctx (inHandler 2).lat.op .nopNoCallback :: (inHandler 2).history
      ∧ (busy cfgZero .start 1 0).reservedOpcode
        = .next (after (busy cfgZero .start 1 0).reservedOpcode (quiet cfgZero)) := ⟨rfl, rfl, rfl, rfl⟩

/-- One operation for each kind of register: PRI, EN, DIS, SHC, SYSPRI, TCTRL. -/
theorem witness_AStaleLatchOverwritesTheOtherContext :
    (ReadModifyWrite cfgZero (.setPriorityIRQ 138 8) 2 (.pri 34) (fun t => insertField t 21 (8 &&& 7))
        ∧ (busy cfgZero (.setPriorityIRQ 138 8) 2 0).AtStep 2)
      ∧ (ReadModifyWrite cfgZero (.enableIRQ 138) 2 (.en 4) (fun t => t ||| 1#32 <<< 10)
        ∧ (busy cfgZero (.enableIRQ 138) 2 1).AtStep 2)
      ∧ (ReadModifyWrite cfgState (.disableIRQ 31) 2 (.dis 0) (fun t => t ||| 1#32 <<< 31)
        ∧ (busy cfgState (.disableIRQ 31) 2 1).AtStep 2)
      ∧ (ReadModifyWrite cfgZero (.disableException 5) 2 .shc (fun t => t &&& ~~~(1#32 <<< 18))
        ∧ (busy cfgZero (.disableException 5) 2 1).AtStep 2)
      ∧ (ReadModifyWrite cfgZero (.setPriorityException 6 7) 2 .syspri2 (fun t => insertField t 29 (7 &&& 7))
        ∧ (busy cfgZero (.setPriorityException 6 7) 2 1).AtStep 2)
      ∧ (ReadModifyWrite cfgZero (.init 10) 5 .tctrl (fun t => t ||| 1#32 <<< 0 ||| 1#32 <<< 1 ||| 1#32 <<< 2)
        ∧ (busy cfgZero (.init 10) 5 0).AtStep 5) :=
  ⟨⟨.setPriorityIRQ 138 8 34 (by decide) (by decide) (by decide), by decide⟩,
    ⟨.enableIRQ 138 4 (by decide) (by decide), by decide⟩, ⟨.disableIRQ 31 0 (by decide) (by decide), by decide⟩,
    ⟨.disableFault 5 18 (by decide), by decide⟩,
    ⟨.setPriorityException 6 7 .syspri2 29 (by decide) (by decide), by decide⟩, ⟨.init 10, by decide⟩⟩

/-- Stopped; at 0; and at 1, where the flag rises. -/
theorem witness_TheTickRule :
    (given [.tick] (quiet cfgZero)).inputs = [.tick] ∧ (quiet cfgZero).enable = false
      ∧ (given [.tick] counting).inputs = [.tick] ∧ counting.enable = true ∧ counting.tcurrent = 0
      ∧ (given [.tick] ({ counting with tcurrent := 1 })).inputs = [.tick]
      ∧ ({ counting with tcurrent := 1 } : State).tcurrent ≠ 0 := by decide

theorem witness_AReloadOfNCountsNPlusOneTicks :
    counting.enable = true ∧ counting.tcurrent = 0 ∧ counting.countFlag = false ∧ counting.treload ≠ 0
      ∧ 1 ≤ 3 ∧ 3 ≤ counting.treload.toNat := by decide

/-- Enabled, and one state for each condition that fails. -/
theorem witness_DispatchEntersTheHandlerExactlyWhenEnabled :
    (given [.dispatch] pending).inputs = [.dispatch] ∧ pending.tickPending = true ∧ pending.imask = false
      ∧ pending.fmask = false ∧ pending.handlerActive = false ∧ pending.ctx = .normal
      ∧ (given [.dispatch] ({ pending with imask := true })).inputs = [.dispatch]
      ∧ ({ pending with fmask := true } : State).fmask = true ∧ (quiet cfgZero).tickPending = false
      ∧ (inHandler 1).handlerActive = true ∧ (inHandler 1).ctx = .interrupt := by decide

theorem witness_PreemptionLeavesTheNormalBankAlone :
    (pending.dispatchEnabled = true ∧ pending.bankI.cur.Idle ∧ pending.bankI.saved = [] ∧ pending.cb = none)
      ∧ (inHandler 2).ctx = .interrupt ∧ (∀ rest, (inHandler 2).inputs ≠ .reset :: rest)
      ∧ step (inHandler 2) = .next (ran .handler (inHandler 2)) :=
  ⟨by decide, rfl, by simp [inHandler, quiet, State.afterReset, State.setLat, State.setBank], rfl⟩

theorem witness_TheResetEventRestoresTheResetValues : (given [.reset] counting).inputs = [.reset] := by decide

theorem quiet_inv : (quiet cfgZero).Inv := by decide

theorem witness_EveryStepKeepsTheInvariant :
    (given [.tick] (quiet cfgZero)).Inv
      ∧ step (given [.tick] (quiet cfgZero)) = .next (after (step (given [.tick] (quiet cfgZero))) (quiet cfgZero)) :=
  ⟨quiet_inv, rfl⟩

theorem witness_NoAdmittedStepStops :
    (given [.dispatch] (quiet cfgZero)).Inv ∧ InputAdmitted .dispatch = true := ⟨quiet_inv, rfl⟩

theorem witness_AdmittedRunsNeverStop :
    (given [.present 0x0A0000000000, .callReturn, .reset] (quiet cfgZero)).Inv
      ∧ ∀ x ∈ [Input.present 0x0A0000000000, .callReturn, .reset], InputAdmitted x = true := ⟨quiet_inv, by decide⟩

theorem witness_TheThreeOutsideInputsAreRefused :
    (given [.unprivileged 0] (quiet cfgZero)).inputs = [.unprivileged 0]
      ∧ (given [.otherMaster .shc 0] (quiet cfgZero)).inputs = [.otherMaster .shc 0]
      ∧ (given [.svcHandler 0] (quiet cfgZero)).inputs = [.svcHandler 0] := by decide

end Sys2Proof.Tests
end

section
/-! SUPPORT. The form of every list of micro-steps: the last one is the result, and only `Handler` calls out. -/

namespace Sys2Proof.Machine

/-- A micro-step that hands on to the next one of its command: it neither ends the command nor calls out, and what it puts into
the slot is a callback (10_state.md R25, R47). -/
def Micro.HandsOn : Micro → Prop
  | .read _ => True
  | .poll _ _ => True
  | .write _ _ => True
  | .loadCb => True
  | .storeCb f => callbackWellFormed f = true
  | .setIMask _ => True
  | .setFMask _ => True
  | .raiseSvc => True
  | .callOut _ => False
  | .result _ => False

/-- Every micro-step hands on to the next one, and the last one is a result (10_state.md R25, 60_exceptions.md R200). -/
def EndsWithResult : List (Latches → Micro) → Prop
  | [] => False
  | [m] => ∀ l, ∃ c, m l = .result c
  | m :: n :: ms => (∀ l, (m l).HandsOn) ∧ EndsWithResult (n :: ms)

theorem endsWithResult_getElem {ms : List (Latches → Micro)} (h : EndsWithResult ms) {k : Nat} {m : Latches → Micro}
    (hm : ms[k]? = some m) (l : Latches) : (∃ c, m l = .result c) ∨ ((m l).HandsOn ∧ k + 2 ≤ ms.length) := by
  induction ms generalizing k with
  | nil => simp at hm
  | cons a as ih =>
    cases as with
    | nil =>
      obtain ⟨-, rfl⟩ : k = 0 ∧ a = m := by simpa [List.getElem?_cons] using hm
      exact .inl (h l)
    | cons b bs =>
      obtain ⟨ha, hb⟩ := h
      cases k with
      | zero =>
        obtain rfl : a = m := by simpa using hm
        exact .inr ⟨ha l, by simp⟩
      | succ k =>
        have h := ih hb (k := k) (by simpa using hm)
        simp only [List.length_cons] at h ⊢
        exact h.imp_right fun ⟨hh, hk⟩ => ⟨hh, by omega⟩

theorem microsOf_endsWithResult (cfg : Config) {i : Instr} (hi : i ≠ .handler) : EndsWithResult (microsOf cfg i) := by
  cases i with
  | handler => exact absurd rfl hi
  | enableIRQ id => simp only [microsOf, microsEnableIRQ]; split <;> simp [EndsWithResult, Micro.HandsOn]
  | disableIRQ id => simp only [microsOf, microsDisableIRQ]; split <;> simp [EndsWithResult, Micro.HandsOn]
  | setPriorityIRQ id p =>
    simp only [microsOf, microsSetPriorityIRQ]
    split <;> [skip; split] <;> simp [EndsWithResult, Micro.HandsOn]
  | enableException k =>
    simp only [microsOf, microsEnableException]
    split <;> [skip; split] <;> simp [EndsWithResult, Micro.HandsOn]
  | disableException k =>
    simp only [microsOf, microsDisableException]
    split <;> [skip; split] <;> simp [EndsWithResult, Micro.HandsOn]
  | setPriorityException k p =>
    simp only [microsOf, microsSetPriorityException]
    split <;> [skip; split <;> [skip; split]] <;> simp [EndsWithResult, Micro.HandsOn]
  | init p => simp [microsOf, microsInit, EndsWithResult, Micro.HandsOn]
  | startBusyWait p => simp [microsOf, microsStartBusyWait, EndsWithResult, Micro.HandsOn]
  | setCallBack fn => simp [microsOf, microsSetCallBack, EndsWithResult, Micro.HandsOn, callbackOfWord_wellFormed]
  | start => simp [microsOf, microsStart, EndsWithResult, Micro.HandsOn]
  | stop => simp [microsOf, microsStop, EndsWithResult, Micro.HandsOn]
  | deInit => simp [microsOf, microsDeInit, EndsWithResult, Micro.HandsOn, callbackWellFormed]

/-- Only opcode 0x0A decodes to `Handler` (30_encoding.md R93). -/
theorem decodeFields_handler {op a : Byte} {b : Word} (h : decodeFields op a b = .ok .handler) : op = 0x0A := by
  unfold decodeFields at h
  split at h <;> simp at h
  exact BitVec.eq_of_toNat_eq ‹_›

/-- What the micro-step a command comes to next can be: its result, a hand-over to a further one, or the call-out of `Handler`. -/
theorem microsOfWord_getElem {cfg : Config} {l : Latches} {k : Nat} {m : Latches → Micro}
    (hm : (microsOfWord cfg l.word)[k]? = some m) :
    (∃ c, m l = .result c)
      ∨ ((m l).HandsOn ∧ k + 2 ≤ (microsOfWord cfg l.word).length)
      ∨ (l.op = 0x0A ∧ k = 1 ∧ ∃ g, l.f = some g ∧ m l = .callOut g) := by
  unfold microsOfWord at *
  split at hm
  next i hi =>
    by_cases hh : i = .handler
    · subst hh
      have hop : l.op = 0x0A := decodeFields_handler (by simpa [decode, Latches.word] using hi)
      match k, hm with
      | 0, hm =>
        obtain rfl : (fun _ => Micro.loadCb) = m := by simpa [microsOf, microsHandler] using hm
        exact .inr (.inl ⟨trivial, by simp [microsOf, microsHandler]⟩)
      | 1, hm =>
        obtain rfl : (fun l => handlerCall l.f) = m := by simpa [microsOf, microsHandler] using hm
        cases hf : l.f with
        | none => exact .inl ⟨_, by simp [handlerCall, hf]; rfl⟩
        | some g => exact .inr (.inr ⟨hop, rfl, g, rfl, by simp [handlerCall, hf]⟩)
      | 2, hm =>
        obtain rfl : (fun _ => Micro.result .ok) = m := by simpa [microsOf, microsHandler] using hm
        exact .inl ⟨_, rfl⟩
      | k + 3, hm => simp [microsOf, microsHandler] at hm
    · exact (endsWithResult_getElem (microsOf_endsWithResult cfg hh) hm l).imp_right .inl
  next => 
    have he : EndsWithResult [fun _ => .result .errOpcode] := fun _ => ⟨_, rfl⟩
    exact (endsWithResult_getElem he hm l).imp_right .inl

theorem microsOf_ne_nil (cfg : Config) (i : Instr) : microsOf cfg i ≠ [] := by
  by_cases hi : i = .handler
  · subst hi; simp [microsOf, microsHandler]
  · intro h
    have := microsOf_endsWithResult cfg hi
    rw [h] at this
    exact this

/-- Every command word has a first micro-step (30_encoding.md R91, R104). -/
theorem microsOfWord_length_pos (cfg : Config) (w : CommandWord) : 1 ≤ (microsOfWord cfg w).length := by
  unfold microsOfWord
  split
  · exact List.length_pos_of_ne_nil (microsOf_ne_nil _ _)
  · simp

end Sys2Proof.Machine
end

section
/-! SUPPORT. The invariant of the machine, bank by bank, and the operations that keep it. -/

namespace Sys2Proof.Machine

/-- What the invariant says of one bank: its sequencer and its copies of the callback slot (10_state.md R23, R24, R47). -/
def Bank.Good (cfg : Config) (b : Bank) : Prop :=
  b.Sound cfg ∧ ∀ l ∈ b.cur :: b.saved, callbackWellFormed l.f = true

/-- What the invariant says of bank I while the interrupt context runs: a command is in progress and the lowest one is
`Handler` (10_state.md R48, R217). -/
def Bank.InHandler (b : Bank) : Prop := ¬ b.cur.Idle ∧ b.base.op = 0x0A

/-- The invariant, bank by bank. -/
theorem inv_iff (s : State) :
    s.Inv ↔ s.cfg.wellFormed = true ∧ s.WidthsSound ∧ callbackWellFormed s.cb = true
      ∧ s.bankN.Good s.cfg ∧ s.bankI.Good s.cfg ∧ s.ContextSound :=
  ⟨fun ⟨hc, ⟨hn, hi, hx⟩, hw, hcb, hfn, hfi⟩ => ⟨hc, hw, hcb, ⟨hn, hfn⟩, ⟨hi, hfi⟩, hx⟩,
    fun ⟨hc, hw, hcb, ⟨hn, hfn⟩, ⟨hi, hfi⟩, hx⟩ => ⟨hc, ⟨hn, hi, hx⟩, hw, hcb, hfn, hfi⟩⟩

theorem inv_widths {s : State} (h : s.Inv) : s.WidthsSound := h.2.2.1

theorem inv_cb {s : State} (h : s.Inv) : callbackWellFormed s.cb = true := h.2.2.2.1

theorem inv_bank_good {s : State} (h : s.Inv) : s.bank.Good s.cfg := by
  obtain ⟨-, -, -, hn, hi, -⟩ := (inv_iff s).mp h
  cases hx : s.ctx
  · simpa [State.bank, hx] using hn
  · simpa [State.bank, hx] using hi

theorem inv_bank_inHandler {s : State} (h : s.Inv) (hx : s.ctx = .interrupt) : s.bank.InHandler := by
  obtain ⟨-, -, -, -, -, ⟨hc, -⟩ | ⟨-, -, hi, hb⟩⟩ := (inv_iff s).mp h
  · rw [hx] at hc; cases hc
  · rw [State.bank, hx]
    exact ⟨hi, hb⟩

/-- A change within the current context keeps the invariant if it keeps the widths, the slot and the current bank good. -/
theorem inv_of_bank {s t : State} (h : s.Inv) (hcfg : t.cfg = s.cfg) (hctx : SameContext s t) (hw : t.WidthsSound)
    (hcb : callbackWellFormed t.cb = true) (hb : t.bank.Good s.cfg)
    (hh : s.ctx = .interrupt → t.bank.InHandler) : t.Inv := by
  obtain ⟨hc, -, -, hn, hi, hx⟩ := (inv_iff s).mp h
  obtain ⟨htx, hta, hto⟩ := hctx
  rw [inv_iff, hcfg]
  refine ⟨hc, hw, hcb, ?_⟩
  cases hs : s.ctx
  · simp only [State.bank, State.bankOf, Ctx.other, htx, hs] at hb hto
    rw [hto]
    refine ⟨hb, hi, ?_⟩
    simp only [State.ContextSound, htx, hta, hto]
    exact hx.elim .inl fun hx => absurd hx.1 (by simp [hs])
  · have hin := hh hs
    simp only [State.bank, State.bankOf, Ctx.other, htx, hs] at hb hto hin
    rw [hto]
    refine ⟨hn, hb, .inr ⟨by rw [htx, hs], ?_, hin⟩⟩
    exact hx.elim (fun hx => absurd hx.1 (by simp [hs])) fun hx => hta.trans hx.2.1

/-! One bank. -/

/-- A `Handler` saved on top of the others does not change the lowest command. -/
theorem base_cons (l c : Latches) (ls : List Latches) (r : ResultCode) :
    Bank.base ⟨c, l :: ls, r⟩ = Bank.base ⟨l, ls, r⟩ := List.getLastD_cons

theorem not_idle_of_running_or_inCall {cfg : Config} {l : Latches} (h : l.Running cfg ∨ l.InCall) : ¬ l.Idle := by
  rintro ⟨h0, -⟩
  obtain ⟨-, h1, -⟩ | ⟨-, h2, -⟩ := h <;> omega

theorem inCall_calling {l : Latches} (h : l.InCall) : ∃ g, l.calling = some g := by
  obtain ⟨-, -, hf, hcall⟩ := h
  exact Option.isSome_iff_exists.mp (hcall ▸ hf)

theorem bank_good_setCur {cfg : Config} {b : Bank} {l : Latches} (h : b.Good cfg) (hb : ¬ b.cur.Idle)
    (hl : l.Running cfg ∨ l.InCall) (hf : callbackWellFormed l.f = true) : ({ b with cur := l } : Bank).Good cfg := by
  obtain ⟨hs | ⟨-, hs⟩, hfs⟩ := h
  · exact absurd hs.1 hb
  · exact ⟨.inr ⟨hl, hs⟩, List.forall_mem_cons.mpr ⟨hf, (List.forall_mem_cons.mp hfs).2⟩⟩

theorem bank_inHandler_setCur {cfg : Config} {b : Bank} {l : Latches} (h : b.InHandler)
    (hl : l.Running cfg ∨ l.InCall) (ho : l.op = b.cur.op) : ({ b with cur := l } : Bank).InHandler := by
  refine ⟨not_idle_of_running_or_inCall hl, ?_⟩
  obtain ⟨c, saved, r⟩ := b
  cases saved with
  | nil => exact ho.trans h.2
  | cons x xs => exact h.2

/-- A bank that accepts a command is good: an idle one has nothing below, a waiting `Handler` is saved (10_state.md R23). -/
theorem bank_good_accept {cfg : Config} {b : Bank} (w : CommandWord) (h : b.Good cfg)
    (hc : b.cur.ustep = 0 ∨ b.cur.calling.isSome = true) : (b.accept w).Good cfg := by
  have hrun : (b.cur.load w).Running cfg := ⟨rfl, Nat.le_refl 1, microsOfWord_length_pos _ _⟩
  obtain ⟨⟨⟨hu, hcall⟩, hs⟩ | ⟨hr | hr, hs⟩, hf⟩ := h
  · simp only [Bank.accept, hcall]
    exact ⟨.inr ⟨.inl hrun, by simp [hs]⟩, by simpa [Latches.load] using hf⟩
  · obtain ⟨hcall, hpos, -⟩ := hr
    simp only [hcall, Option.isSome_none, Bool.false_eq_true, or_false] at hc
    omega
  · obtain ⟨g, hg⟩ := inCall_calling hr
    simp only [Bank.accept, hg]
    exact ⟨.inr ⟨.inl hrun, List.forall_mem_cons.mpr ⟨hr, hs⟩⟩,
      List.forall_mem_cons.mpr ⟨(List.forall_mem_cons.mp hf).1, hf⟩⟩

theorem bank_inHandler_accept {b : Bank} (w : CommandWord) (h : b.InHandler)
    (hc : b.cur.ustep = 0 ∨ b.cur.calling.isSome = true) : (b.accept w).InHandler := by
  obtain ⟨hi, hb⟩ := h
  refine ⟨by simp [Bank.accept, Latches.load], ?_⟩
  cases hcall : b.cur.calling with
  | none =>
    have hu : b.cur.ustep = 0 := by simpa [hcall] using hc
    exact absurd ⟨hu, hcall⟩ hi
  | some g =>
    simp only [Bank.accept, hcall, base_cons]
    exact hb

end Sys2Proof.Machine
end

section
/-! SUPPORT. Each operation of the machine keeps the invariant. -/

namespace Sys2Proof.Machine

theorem canAccept_iff (s : State) : s.canAccept = true ↔ s.lat.ustep = 0 ∨ s.lat.calling.isSome = true := by
  simp [State.canAccept]

/-- A bank that cannot accept runs a command (10_state.md R24). -/
theorem inv_running {s : State} (h : s.Inv) (hc : s.canAccept = false) : s.lat.Running s.cfg := by
  have hn : ¬ (s.lat.ustep = 0 ∨ s.lat.calling.isSome = true) := by rw [← canAccept_iff, hc]; simp
  obtain ⟨⟨⟨hu, -⟩, -⟩ | ⟨hr | hr, -⟩, -⟩ := inv_bank_good h
  · exact absurd (.inl hu) hn
  · exact hr
  · obtain ⟨g, hg⟩ := inCall_calling hr
    exact absurd (.inr (Option.isSome_iff_exists.mpr ⟨g, hg⟩)) hn

theorem inv_lat_callback {s : State} (h : s.Inv) : callbackWellFormed s.lat.f = true :=
  (inv_bank_good h).2 _ List.mem_cons_self

theorem withInputs_inv {s : State} (h : s.Inv) (x : List Input) : (s.withInputs x).Inv := h

theorem record_inv {s : State} (h : s.Inv) (e : Event) : (s.record e).Inv := h

theorem accept_inv {s : State} (h : s.Inv) (hc : s.canAccept = true) (w : CommandWord) : (s.accept w).Inv := by
  rw [canAccept_iff] at hc
  refine inv_of_bank h rfl ⟨rfl, rfl, bankOf_other_setBank _ s⟩ (inv_widths h :) (inv_cb h :) ?_ fun hx => ?_
  · rw [accept_bank]
    exact bank_good_accept w (inv_bank_good h) hc
  · rw [accept_bank]
    exact bank_inHandler_accept w (inv_bank_inHandler h hx) hc

/-- A step within a command keeps the invariant if it leaves the command's USTEP and its copy of the slot where they may be. -/
theorem inv_of_sameCommand {s t : State} (h : s.Inv) (hi : ¬ s.lat.Idle) (hcfg : t.cfg = s.cfg) (hcmd : SameCommand s t)
    (hother : t.bankOf s.ctx.other = s.bankOf s.ctx.other) (hw : t.WidthsSound) (hcb : callbackWellFormed t.cb = true)
    (hl : t.lat.Running s.cfg ∨ t.lat.InCall) (hf : callbackWellFormed t.lat.f = true) : t.Inv := by
  obtain ⟨hop, -, -, hsaved, hres, hctx, hact⟩ := hcmd
  have hb : t.bank = ⟨t.lat, s.bank.saved, s.bank.res⟩ := by rw [← hsaved, ← hres]; rfl
  refine inv_of_bank h hcfg ⟨hctx, hact, hother⟩ hw hcb ?_ fun hx => ?_ <;> rw [hb]
  · exact bank_good_setCur (inv_bank_good h) hi hl hf
  · exact bank_inHandler_setCur (inv_bank_inHandler h hx) hl hop

/-! A micro-step. -/

@[simp] theorem perform_cfg (m : Micro) (s : State) : (s.perform m).cfg = s.cfg := by
  cases m <;> simp [State.perform]

theorem perform_widths {s : State} (h : s.WidthsSound) (m : Micro) : (s.perform m).WidthsSound := by
  cases m with
  | write sel v => exact widths_of_eq (regWrite_widths h sel v) rfl rfl rfl rfl
  | read sel => exact widths_of_eq h (by simp) (by simp [perform_read]) (by simp [perform_read]) (by simp [perform_read])
  | poll sel mask =>
    exact widths_of_eq h (by simp) (by simp [perform_poll]) (by simp [perform_poll]) (by simp [perform_poll])
  | result c =>
    exact widths_of_eq h (by simp) (by simp [perform_result]) (by simp [perform_result]) (by simp [perform_result])
  | loadCb => exact h
  | storeCb f => exact h
  | setIMask b => exact h
  | setFMask b => exact h
  | raiseSvc => exact h
  | callOut g => exact h

/-- What a micro-step that hands on does to the sequencer: USTEP names the next micro-step, or the poll again. -/
theorem perform_handsOn_sequencer {m : Micro} (h : m.HandsOn) (s : State) :
    (s.perform m).lat.calling = s.lat.calling
      ∧ ((s.perform m).lat.ustep = s.lat.ustep ∨ (s.perform m).lat.ustep = s.lat.ustep + 1) := by
  have adv : ∀ (u : State) (e : Event), u.lat = s.lat →
      (u.advance.record e).lat.calling = s.lat.calling
        ∧ ((u.advance.record e).lat.ustep = s.lat.ustep ∨ (u.advance.record e).lat.ustep = s.lat.ustep + 1) :=
    fun u e hu => by simp [hu]
  cases m with
  | callOut g => exact h.elim
  | result c => exact h.elim
  | read sel => simp [perform_read]
  | poll sel mask =>
    simp only [perform_poll, readIntoT_lat, true_and]
    split <;> simp
  | loadCb => simp [perform_loadCb]
  | write sel v => exact adv _ _ (by simp)
  | storeCb f => exact adv _ _ rfl
  | setIMask b => exact adv _ _ rfl
  | setFMask b => exact adv _ _ rfl
  | raiseSvc => exact adv _ _ rfl

/-- What it does to the slot and the latched copy of it: they stay callbacks (10_state.md R47). -/
theorem perform_handsOn_callbacks {m : Micro} (h : m.HandsOn) {s : State} (hcb : callbackWellFormed s.cb = true)
    (hf : callbackWellFormed s.lat.f = true) :
    callbackWellFormed (s.perform m).cb = true ∧ callbackWellFormed (s.perform m).lat.f = true := by
  cases m with
  | callOut g => exact h.elim
  | result c => exact h.elim
  | read sel => simp [perform_read, hcb, hf]
  | poll sel mask => simp [perform_poll, hcb, hf]
  | write sel v => simp [perform_write, hcb, hf]
  | loadCb => simp [perform_loadCb, hcb]
  | storeCb f => simpa [perform_storeCb] using ⟨h, hf⟩
  | setIMask b => simpa [perform_setIMask] using ⟨hcb, hf⟩
  | setFMask b => simpa [perform_setFMask] using ⟨hcb, hf⟩
  | raiseSvc => simp [perform_raiseSvc, hcb, hf]

end Sys2Proof.Machine
end

section
/-! SUPPORT. What each kind of step can do, and that it keeps the invariant. -/

namespace Sys2Proof.Machine

theorem perform_handsOn_inv {s : State} {m : Micro} (h : s.Inv) (hr : s.lat.Running s.cfg) (hm : m.HandsOn)
    (hk : s.lat.ustep + 1 ≤ (microsOfWord s.cfg s.lat.word).length) : (s.perform m).Inv := by
  have hcmd := (perform_goes_on (s := s) (m := m) fun c hc => by simp [hc, Micro.HandsOn] at hm).1
  obtain ⟨hop, ha, hb, -⟩ := id hcmd
  obtain ⟨hcall, hu⟩ := perform_handsOn_sequencer hm s
  obtain ⟨hcb, hf⟩ := perform_handsOn_callbacks hm (inv_cb h :) (inv_lat_callback h)
  have hw : (s.perform m).lat.word = s.lat.word := by rw [Latches.word, hop, ha, hb, ← Latches.word]
  refine inv_of_sameCommand h (not_idle_of_running_or_inCall (.inl hr)) (perform_cfg m s) hcmd (perform_other m s)
    (perform_widths (inv_widths h :) m) hcb (.inl ?_) hf
  obtain ⟨hr0, hr1, -⟩ := hr
  rw [Latches.Running, hw]
  exact ⟨hcall.trans hr0, by omega, by omega⟩

theorem perform_callOut_inv {s : State} {g : Reference} (h : s.Inv) (ho : s.lat.op = 0x0A) (hu : s.lat.ustep = 2)
    (hf : s.lat.f = some g) : (s.perform (.callOut g)).Inv := by
  refine inv_of_sameCommand h (fun hi => by have := hi.1; omega) (perform_cfg _ s)
    (perform_goes_on (by simp)).1 (perform_other _ s) (perform_widths (inv_widths h :) _) (inv_cb h :) (.inr ?_) ?_
  · simp [perform_callOut, Latches.InCall, ho, hu, hf]
  · simpa [perform_callOut] using inv_lat_callback h

/-! The end of a command, by what waits below it (60_exceptions.md R200, R213). -/

/-- A bank whose lowest command has ended with `c`: its latches are idle and nothing waits (10_state.md R24, R28). -/
def Bank.freed (c : ResultCode) (b : Bank) : Bank := ⟨{ b.cur with ustep := 0, calling := none }, [], c⟩

theorem finish_saved {s : State} {l : Latches} {ls : List Latches} (h : s.bank.saved = l :: ls) (c : ResultCode) :
    s.finish c = (s.record (.result s.ctx s.lat.op c)).setBank ⟨l, ls, c⟩ := by
  simp [State.finish, h]

theorem finish_normal {s : State} (h : s.bank.saved = []) (hx : s.ctx = .normal) (c : ResultCode) :
    s.finish c = (s.record (.result s.ctx s.lat.op c)).setBank (s.bank.freed c) := by
  simp [State.finish, h, hx, Bank.freed]

theorem finish_interrupt {s : State} (h : s.bank.saved = []) (hx : s.ctx = .interrupt) (c : ResultCode) :
    s.finish c = ((s.record (.result s.ctx s.lat.op c)).setBank (s.bank.freed c)).handlerReturn := by
  simp [State.finish, h, hx, Bank.freed]

/-- The lowest command of the interrupt context ends with the handler return; bank N is left alone (60_exceptions.md R213). -/
theorem finish_interrupt_context {s : State} (h : s.bank.saved = []) (hx : s.ctx = .interrupt) (c : ResultCode) :
    (s.finish c).bankN = s.bankN ∧ (s.finish c).bankI = s.bank.freed c ∧ (s.finish c).ctx = .normal
      ∧ (s.finish c).handlerActive = false := by
  simp [finish_interrupt h hx, State.setBank, hx]

theorem bank_good_freed {cfg : Config} {b : Bank} (h : b.Good cfg) (c : ResultCode) : (b.freed c).Good cfg :=
  ⟨.inl ⟨⟨rfl, rfl⟩, rfl⟩, by simpa [Bank.freed] using (List.forall_mem_cons.mp h.2).1⟩

theorem bank_good_pop {cfg : Config} {b : Bank} {l : Latches} {ls : List Latches} (h : b.Good cfg)
    (hs : b.saved = l :: ls) (c : ResultCode) : Bank.Good cfg ⟨l, ls, c⟩ := by
  obtain ⟨⟨-, hn⟩ | ⟨-, hw⟩, hf⟩ := h
  · rw [hs] at hn; cases hn
  · rw [hs] at hw hf
    obtain ⟨hl, hls⟩ := List.forall_mem_cons.mp hw
    exact ⟨.inr ⟨.inr hl, hls⟩, (List.forall_mem_cons.mp hf).2⟩

theorem bank_inHandler_pop {cfg : Config} {b : Bank} {l : Latches} {ls : List Latches} (h : b.InHandler)
    (hg : b.Good cfg) (hs : b.saved = l :: ls) (c : ResultCode) : Bank.InHandler ⟨l, ls, c⟩ := by
  obtain ⟨cur, saved, r⟩ := b
  subst hs
  have hl : l.InCall := by
    obtain ⟨⟨-, hn⟩ | ⟨-, hw⟩, -⟩ := hg
    · cases hn
    · exact (List.forall_mem_cons.mp hw).1
  exact ⟨not_idle_of_running_or_inCall (cfg := cfg) (.inr hl), base_cons l cur ls r ▸ h.2⟩

theorem finish_widths {s : State} (h : s.WidthsSound) (c : ResultCode) : (s.finish c).WidthsSound :=
  perform_widths h (.result c)

theorem finish_inv {s : State} (h : s.Inv) (c : ResultCode) : (s.finish c).Inv := by
  have hg := inv_bank_good h
  cases hs : s.bank.saved with
  | cons l ls =>
    rw [finish_saved hs]
    refine inv_of_bank (record_inv h _) rfl ⟨rfl, rfl, bankOf_other_setBank _ _⟩ (inv_widths h :)
      (inv_cb h :) ?_ fun hx => ?_
    · simpa using bank_good_pop hg hs c
    · simpa using bank_inHandler_pop (inv_bank_inHandler h hx) hg hs c
  | nil =>
    cases hx : s.ctx with
    | normal =>
      rw [finish_normal hs hx]
      refine inv_of_bank (record_inv h _) rfl ⟨rfl, rfl, bankOf_other_setBank _ _⟩ (inv_widths h :)
        (inv_cb h :) ?_ fun hi => ?_
      · simpa using bank_good_freed hg c
      · rw [record_ctx, hx] at hi; cases hi
    | interrupt =>
      obtain ⟨hc, -, hcb, hn, -, -⟩ := (inv_iff s).mp h
      obtain ⟨hN, hI, hctx, hact⟩ := finish_interrupt_context hs hx c
      rw [inv_iff, finish_cfg, finish_cb, hN, hI]
      exact ⟨hc, finish_widths (inv_widths h :) c, hcb, hn, bank_good_freed hg c, .inl ⟨hctx, hact, hI ▸ ⟨rfl, rfl⟩⟩⟩

/-! The executing context. -/

/-- The executing context goes on with the command whose word is latched (10_state.md R21, R24). -/
theorem runContext_next {s t : State} (h : s.runContext = .next t) :
    (s.canAccept = true ∧ t = s)
      ∨ (s.canAccept = false ∧ ∃ m, (microsOfWord s.cfg s.lat.word)[s.lat.ustep - 1]? = some m
          ∧ t = s.perform (m s.lat)) := by
  unfold State.runContext at h
  split at h
  next hc => exact .inl ⟨hc, by simpa using h.symm⟩
  next hc =>
    have hcmd : ∃ w, s.command w (microsOfWord s.cfg s.lat.word) = .next t := by
      unfold microsOfWord
      cases hf : decode s.lat.word with
      | ok i =>
        have hf' : s.fetch = .ok i := hf
        simp only [hf', exec_eq_command] at h
        exact ⟨_, h⟩
      | error e =>
        have hf' : s.fetch = .error e := hf
        simp only [hf'] at h
        exact ⟨_, h⟩
    obtain ⟨w, hw⟩ := hcmd
    obtain ⟨ha, -⟩ | ⟨ha, m, -, hm, ht⟩ := command_next hw
    · exact absurd ha hc
    · exact .inr ⟨ha, m, hm, ht⟩

theorem runContext_inv {s t : State} (h : s.Inv) (ht : s.runContext = .next t) : t.Inv := by
  obtain ⟨-, rfl⟩ | ⟨hc, m, hm, rfl⟩ := runContext_next ht
  · exact h
  · have hr := inv_running h hc
    have hpos := hr.2.1
    obtain ⟨c, hres⟩ | ⟨hon, hk⟩ | ⟨ho, hk, g, hf, hcall⟩ := microsOfWord_getElem hm
    · rw [hres]
      exact finish_inv h c
    · exact perform_handsOn_inv h hr hon (by omega)
    · rw [hcall]
      exact perform_callOut_inv h ho (by omega) hf

/-! The other agents. -/

/-- Opcode 0x0A is `Handler`, whatever its ignored fields hold (30_encoding.md R93, R95). -/
theorem decode_handler {w : CommandWord} (ho : w.op = 0x0A) : decode w = .ok .handler := by
  simp [decode, ho, decodeFields]

theorem microsOfWord_handler {cfg : Config} {w : CommandWord} (ho : w.op = 0x0A) : microsOfWord cfg w = microsHandler := by
  have hd := decode_handler ho
  simp only [microsOfWord, hd, microsOf]

theorem callReturn_inv {s : State} (h : s.Inv) : s.callReturn.Inv := by
  unfold State.callReturn
  cases hcall : s.lat.calling with
  | none => exact h
  | some g =>
    have hin : s.lat.InCall := by
      obtain ⟨⟨hi, -⟩ | ⟨hr | hr, -⟩, -⟩ := inv_bank_good h
      · exact absurd (hcall.symm.trans hi.2) (by simp)
      · exact absurd (hcall.symm.trans hr.1) (by simp)
      · exact hr
    obtain ⟨ho, hu, -, -⟩ := hin
    refine inv_of_sameCommand h (fun hi => by have := hi.1; omega) rfl (by simp [SameCommand]) (by simp) (inv_widths h :)
      (inv_cb h :) (.inl ?_) (by simpa using inv_lat_callback h)
    rw [record_lat, setLat_lat]
    refine ⟨rfl, Nat.le_add_left 1 _, ?_⟩
    rw [microsOfWord_handler (by simpa [Latches.word] using ho)]
    simp [microsHandler, hu]

theorem tick_keeps (s : State) :
    s.tick.cfg = s.cfg ∧ s.tick.cb = s.cb ∧ SameContext s s.tick ∧ s.tick.bank = s.bank ∧ s.tick.bankN = s.bankN := by
  unfold State.tick State.countDown
  split
  · split <;> exact ⟨rfl, rfl, ⟨rfl, rfl, by cases s.ctx <;> rfl⟩, rfl, rfl⟩
  · exact ⟨rfl, rfl, ⟨rfl, rfl, rfl⟩, rfl, rfl⟩

theorem tick_inv {s : State} (h : s.Inv) : s.tick.Inv := by
  obtain ⟨hcfg, hcb, hctx, hb, -⟩ := tick_keeps s
  exact inv_of_bank h hcfg hctx (tick_widths (inv_widths h :)) (hcb ▸ (inv_cb h :)) (hb ▸ inv_bank_good h)
    fun hx => hb ▸ inv_bank_inHandler h hx

/-- The dispatch finds bank I idle and starts `Handler` as its lowest command (60_exceptions.md R210). -/
theorem enterHandler_inv {s : State} (h : s.Inv) (hx : s.ctx = .normal) : s.enterHandler.Inv := by
  obtain ⟨hc, hw, hcb, hn, hi, ⟨-, -, hidle⟩ | ⟨hx', -⟩⟩ := (inv_iff s).mp h
  · have hb : (s.bankI.accept handlerWord).InHandler := by
      refine ⟨by simp [Bank.accept, Latches.load], ?_⟩
      have hs : s.bankI.saved = [] := by
        obtain ⟨⟨-, hs⟩ | ⟨hr, -⟩, -⟩ := hi
        · exact hs
        · exact absurd hidle (not_idle_of_running_or_inCall hr)
      simp only [Bank.accept, Bank.base, hidle.2, hs]
      rfl
    exact (inv_iff _).mpr
      ⟨hc, hw, hcb, hn, bank_good_accept _ hi (.inl hidle.1), .inr ⟨rfl, rfl, hb⟩⟩
  · rw [hx] at hx'; cases hx'

theorem dispatch_inv {s : State} (h : s.Inv) : s.dispatch.Inv := by
  unfold State.dispatch
  split
  next he =>
    simp only [State.dispatchEnabled, Bool.and_eq_true, beq_iff_eq] at he
    exact enterHandler_inv h he.2
  next => exact h

theorem bank_good_atReset (cfg : Config) : Bank.atReset.Good cfg :=
  ⟨.inl ⟨⟨rfl, rfl⟩, rfl⟩, by simp [Bank.atReset, Latches.idle, callbackWellFormed]⟩

/-- Every reset state of a well-formed configuration meets the invariant (10_state.md R52). -/
theorem afterReset_inv {cfg : Config} (h : cfg.wellFormed = true) (n : Nat) : (State.afterReset cfg n).Inv :=
  (inv_iff _).mpr ⟨h, afterReset_widths cfg n, rfl, bank_good_atReset cfg, bank_good_atReset cfg,
    .inl ⟨rfl, rfl, rfl, rfl⟩⟩

theorem resetEvent_inv {s : State} (h : s.Inv) : s.resetEvent.Inv := afterReset_inv h.1 s.draws

theorem serve_inv {s t : State} (h : s.Inv) (input : Input) (rest : List Input) (ht : s.serve input rest = .next t) :
    t.Inv := by
  have hrest := withInputs_inv h rest
  cases input with
  | micro => exact runContext_inv hrest ht
  | tick => cases ht; exact tick_inv hrest
  | dispatch => cases ht; exact dispatch_inv hrest
  | present w =>
    simp only [State.serve] at ht
    split at ht
    next hc => cases ht; exact accept_inv hrest hc w
    next => exact runContext_inv h ht
  | callReturn =>
    simp only [State.serve] at ht
    split at ht
    next => cases ht; exact callReturn_inv hrest
    next => exact runContext_inv h ht
  | reset => cases ht; exact resetEvent_inv hrest
  | unprivileged w => cases ht
  | otherMaster sel v => cases ht
  | svcHandler w => cases ht

theorem step_inv {s t : State} (h : s.Inv) (ht : step s = .next t) : t.Inv := by
  unfold step at ht
  split at ht
  · exact runContext_inv h ht
  · exact serve_inv h _ _ ht

theorem machine_wellFormed : Config.machine.wellFormed = true := by
  have ht := Config.openTicksPerMsLess1.isLt
  have hm : (Config.openTicksPerMsLess1.val + 1) % 4294967296 = Config.openTicksPerMsLess1.val + 1 := by omega
  simp [Config.wellFormed, Config.machine, hm]

end Sys2Proof.Machine

namespace Sys2Proof.Proofs

/-- Settles O57: each input is one operation that keeps the invariant. -/
theorem everyStepKeepsTheInvariant : Obligations.EveryStepKeepsTheInvariant :=
  fun _ _ h ht => Machine.step_inv h ht

/-- Settles O56. -/
theorem theInvariantHoldsAtReset : Obligations.TheInvariantHoldsAtReset :=
  Machine.afterReset_inv Machine.machine_wellFormed 0

end Sys2Proof.Proofs
end

section
/-! SUPPORT. What a write of one register leaves of the others (20_memory.md R62, R63, R68). -/

namespace Sys2Proof.Machine

theorem ienWord_congr {s t : State} (q : Fin 5)
    (h : ∀ j, 32 * q.val ≤ j → j < 32 * q.val + 32 → t.ien.getLsbD j = s.ien.getLsbD j) : t.ienWord q = s.ienWord q := by
  refine BitVec.eq_of_getLsbD_eq fun j hj => ?_
  rw [ienWord_bit, ienWord_bit, h _ (by omega) (by omega)]

/-- Outside the place of `EN(r)` in IEN, no bit is at that place. -/
theorem ienPlace_other {r q : Fin 5} (h : r ≠ q) (v : Word) {j : Nat} (h1 : 32 * q.val ≤ j) (h2 : j < 32 * q.val + 32) :
    (ienPlace r v).getLsbD j = false := by
  have hne : r.val ≠ q.val := fun he => h (Fin.ext he)
  have hout : ¬ (32 * r.val ≤ j ∧ j < 32 * r.val + 32) := by omega
  rw [ienPlace_bit, decide_eq_false hout, Bool.false_and]

/-- EN sets the bits written as 1 (10_state.md R31). -/
theorem regWrite_en_bit (s : State) (r : Fin 5) (v : Word) (j : Nat) :
    (s.regWrite (.en r) v).ien.getLsbD j = (s.ien.getLsbD j || (ienPlace r v).getLsbD j) := by
  rw [regWrite_en, BitVec.getLsbD_or]

/-- DIS clears the bits written as 1 (10_state.md R32). -/
theorem regWrite_dis_bit (s : State) (r : Fin 5) (v : Word) (j : Nat) :
    (s.regWrite (.dis r) v).ien.getLsbD j = (s.ien.getLsbD j && !(ienPlace r v).getLsbD j) := by
  rw [regWrite_dis, BitVec.getLsbD_and, BitVec.getLsbD_not]
  by_cases hj : j < 160
  · simp [hj]
  · simp [BitVec.getLsbD_of_ge s.ien j (by omega)]

theorem regWrite_en_otherWord (s : State) {r q : Fin 5} (h : r ≠ q) (v : Word) :
    (s.regWrite (.en r) v).ienWord q = s.ienWord q :=
  ienWord_congr q fun j h1 h2 => by rw [regWrite_en_bit, ienPlace_other h v h1 h2, Bool.or_false]

theorem regWrite_dis_otherWord (s : State) {r q : Fin 5} (h : r ≠ q) (v : Word) :
    (s.regWrite (.dis r) v).ienWord q = s.ienWord q :=
  ienWord_congr q fun j h1 h2 => by rw [regWrite_dis_bit, ienPlace_other h v h1 h2, Bool.not_false, Bool.and_true]

/-- What DIS reads depends on its own word of IEN only (10_state.md R32). -/
theorem regValue_dis_congr {s t : State} (hc : t.cfg = s.cfg) {q : Fin 5} (h : t.ienWord q = s.ienWord q) :
    t.regValue (.dis q) = s.regValue (.dis q) := by
  simp only [State.regValue, hc, h]

/-- A register reads the same after a write of another, where they are not views of one word and the write is not one of
TCURRENT, which clears COUNTFLAG in TCTRL (20_memory.md R63). -/
theorem regValue_regWrite_other (s : State) {a b : Selector} (v : Word) (hab : a ≠ b)
    (hview : ∀ r, ¬ (a = .en r ∧ b = .dis r) ∧ ¬ (a = .dis r ∧ b = .en r)) (ht : ¬ (a = .tcurrent ∧ b = .tctrl)) :
    (s.regWrite a v).regValue b = s.regValue b := by
  cases a with
  | en r =>
    cases b with
    | en q => exact regWrite_en_otherWord s (fun h => hab (congrArg _ h)) v
    | dis q =>
      have hrq : r ≠ q := fun h => (hview r).1 ⟨rfl, congrArg _ h.symm⟩
      exact regValue_dis_congr (regWrite_cfg _ _ _) (regWrite_en_otherWord s hrq v)
    | _ => rfl
  | dis r =>
    cases b with
    | en q => exact regWrite_dis_otherWord s (fun h => (hview r).2 ⟨rfl, congrArg _ h.symm⟩) v
    | dis q => exact regValue_dis_congr (regWrite_cfg _ _ _) (regWrite_dis_otherWord s (fun h => hab (congrArg _ h)) v)
    | _ => rfl
  | pri r =>
    cases b with
    | pri q =>
      have hne : r.val ≠ q.val := fun h => hab (congrArg _ (Fin.ext h))
      simp [State.regValue, regWrite_pri, Vector.get_eq_getElem, Vector.getElem_set_ne _ _ hne]
    | _ => rfl
  | shc => cases b with
    | shc => exact absurd rfl hab
    | _ => rfl
  | syspri1 => cases b with
    | syspri1 => exact absurd rfl hab
    | _ => rfl
  | syspri2 => cases b with
    | syspri2 => exact absurd rfl hab
    | _ => rfl
  | syspri3 => cases b with
    | syspri3 => exact absurd rfl hab
    | _ => rfl
  | tctrl => cases b with
    | tctrl => exact absurd rfl hab
    | _ => rfl
  | treload => cases b with
    | treload => exact absurd rfl hab
    | _ => rfl
  | tcurrent => cases b with
    | tctrl => exact absurd ⟨rfl, rfl⟩ ht
    | tcurrent => exact absurd rfl hab
    | _ => rfl

/-- A bit of the word TCTRL reads is one of its four fields at its position (10_state.md R40). -/
theorem regValue_tctrl_bit (s : State) (j : Nat) :
    (s.regValue .tctrl).getLsbD j
      = ((s.enable && decide (j = s.cfg.tctrlEnableBit.val)) || (s.tickInt && decide (j = s.cfg.tctrlTickIntBit.val))
        || (s.clkSrc && decide (j = s.cfg.tctrlClkSrcBit.val))
        || (s.countFlag && decide (j = s.cfg.tctrlCountFlagBit.val))) := by
  simp only [State.regValue, State.tctrlWord, BitVec.getLsbD_or, flagWord_bit]

/-- A PRI register reads back what PRI_LOW_BITS lets it hold (10_state.md R33, R35). -/
theorem regValue_regWrite_pri (s : State) (r : Fin 35) (v : Word) :
    (s.regWrite (.pri r) v).regValue (.pri r) = lowLaneBits s.cfg v := by
  simp [State.regValue, regWrite_pri, Vector.get_eq_getElem, lowLaneBits_idem]

/-- With at most 32 TIMER_BITS, the truncation is the remainder (00_scope.md R8). -/
theorem truncTimer_toNat {c : Config} (h : c.timerBits ≤ 32) (v : Word) :
    (truncTimer c v).toNat = v.toNat % 2 ^ c.timerBits := by
  have hlt : v.toNat % 2 ^ c.timerBits < 2 ^ 32 :=
    lt_of_lt_of_le (Nat.mod_lt _ (Nat.two_pow_pos _)) (Nat.pow_le_pow_right (by omega) h)
  rw [truncTimer, BitVec.toNat_ofNat, Nat.mod_eq_of_lt hlt]

end Sys2Proof.Machine

namespace Sys2Proof.Proofs

open Sys2Proof Sys2Proof.Machine

/-- Settles O9, bit by bit at the place of the word in IEN. -/
theorem enableAndDisableRegistersAreViewsOfIen : Obligations.EnableAndDisableRegistersAreViewsOfIen := by
  intro s r v j
  refine ⟨?_, ?_, ienWord_bit s r j, fun h => ?_, fun h => ?_⟩
  · rw [regWrite_en_bit, ienPlace_bit]
  · rw [regWrite_dis_bit, ienPlace_bit]
  · simp only [State.regValue, h]
  · simp only [State.regValue, h]

/-- Settles O11: the four positions are distinct. -/
theorem tctrlWordShowsItsFields : Obligations.TctrlWordShowsItsFields := by
  intro s hwf
  obtain ⟨-, hei, hec, hef, hic, hif, hcf⟩ := wellFormed_positions hwf
  simp only [ne_eq, Fin.ext_iff] at hei hec hef hic hif hcf
  simp only [regValue_tctrl_bit]
  refine ⟨?_, ?_, ?_, ?_, fun j he hi hc hf => ?_⟩
  · simp [hei, hec, hef]
  · simp [Ne.symm hei, hic, hif]
  · simp [Ne.symm hec, Ne.symm hic, hcf]
  · simp [Ne.symm hef, Ne.symm hif, Ne.symm hcf]
  · simp [he, hi, hc, hf]

/-- Settles O12. -/
theorem aWriteLeavesOtherRegistersAlone : Obligations.AWriteLeavesOtherRegistersAlone := by
  intro s a b v hab hview ht
  refine ⟨regValue_regWrite_other s v hab hview ht, ?_⟩
  simp [SameMasks, SameOutside, SameContext]

/-- Settles O10. -/
theorem readAfterWriteOfTheSameRegister : Obligations.ReadAfterWriteOfTheSameRegister := by
  intro s v
  refine ⟨fun r h => ?_, fun r h => ?_, rfl, rfl, rfl, rfl, rfl, rfl, rfl, rfl, fun h => truncTimer_toNat h v,
    rfl, rfl, rfl, rfl, rfl, rfl⟩
  · simp only [regValue_regWrite_pri, lowLaneBits, h]
  · simp only [regValue_regWrite_pri, lowLaneBits, h]
    rfl

end Sys2Proof.Proofs
end

section
/-! SUPPORT. What a micro-step records (20_memory.md R76), and what the end of a callback's command gives back (10_state.md R23). -/

namespace Sys2Proof.Machine

/-- What a step of an instruction can do: acceptance of its word, or one micro-step of its list. -/
theorem exec_next {i : Instr} {s t : State} (h : exec i s = .next t) :
    (s.canAccept = true ∧ t = s.accept (encode i))
      ∨ (s.canAccept = false ∧ ∃ m ∈ microsOf s.cfg i, t = s.perform (m s.lat)) := by
  rw [exec_eq_command] at h
  exact (command_next h).imp_right fun ⟨hc, m, hm, _, ht⟩ => ⟨hc, m, hm, ht⟩

/-- A step of an instruction or of a reserved opcode is the acceptance of some word or a micro-step. -/
theorem exec_or_reserved_next {i : Instr} {s t : State} (h : exec i s = .next t ∨ s.reservedOpcode = .next t) :
    (s.canAccept = true ∧ ∃ w, t = s.accept w) ∨ (s.canAccept = false ∧ ∃ m, t = s.perform m) := by
  have hcmd : ∃ w ms, s.command w ms = .next t := h.elim (fun h => ⟨_, _, exec_eq_command i s ▸ h⟩) fun h => ⟨_, _, h⟩
  obtain ⟨w, ms, hcmd⟩ := hcmd
  exact (command_next hcmd).imp (fun ⟨hc, ht⟩ => ⟨hc, w, ht⟩) fun ⟨hc, m, _, _, ht⟩ => ⟨hc, _, ht⟩

/-- A micro-step other than a result records one event, which is no result. -/
theorem perform_history {m : Micro} (h : ∀ c, m ≠ .result c) (s : State) :
    ∃ e, (s.perform m).history = e :: s.history ∧ ∀ x op c, e ≠ .result x op c := by
  cases m with
  | result c => exact absurd rfl (h c)
  | read sel => exact ⟨_, readIntoT_history sel _ s, by simp⟩
  | poll sel mask => exact ⟨_, readIntoT_history sel _ s, by simp⟩
  | write sel v => exact ⟨.write s.ctx sel v, by simp [perform_write], by simp⟩
  | loadCb => exact ⟨_, rfl, by simp⟩
  | storeCb f => exact ⟨_, rfl, by simp⟩
  | setIMask b => exact ⟨_, rfl, by simp⟩
  | setFMask b => exact ⟨_, rfl, by simp⟩
  | raiseSvc => exact ⟨_, rfl, by simp⟩
  | callOut g => exact ⟨_, rfl, by simp⟩

/-- The end of a command records its result, and the handler return after it where that is due (60_exceptions.md R213). -/
theorem finish_events (c : ResultCode) (s : State) :
    (s.finish c).history = .result s.ctx s.lat.op c :: s.history
      ∨ ((s.finish c).history = .handlerReturn :: .result s.ctx s.lat.op c :: s.history
          ∧ s.ctx = .interrupt ∧ (s.finish c).ctx = .normal) := by
  cases hs : s.bank.saved with
  | cons l ls => exact .inl (by rw [finish_saved hs]; rfl)
  | nil =>
    cases hx : s.ctx with
    | normal => exact .inl (by rw [finish_normal hs hx, ← hx]; rfl)
    | interrupt => exact .inr ⟨by rw [finish_interrupt hs hx, ← hx]; rfl, rfl, by rw [finish_interrupt hs hx]; rfl⟩

/-- A micro-step that records exactly a result of the command in progress is the end of the command with that result. -/
theorem perform_eq_finish {m : Micro} {s : State} {c : ResultCode}
    (h : (s.perform m).history = .result s.ctx s.lat.op c :: s.history) : s.perform m = s.finish c := by
  by_cases hm : ∃ d, m = .result d
  · obtain ⟨d, rfl⟩ := hm
    rw [perform_result] at h ⊢
    obtain hd | ⟨hd, -⟩ := finish_events d s
    · obtain rfl : d = c := by simpa [hd] using h
      rfl
    · simp [hd] at h
  · obtain ⟨e, he, hne⟩ := perform_history (fun d hd => hm ⟨d, hd⟩) s
    rw [he] at h
    exact absurd (List.cons.inj h).1 (hne _ _ _)

/-- A command of a callback gives the bank back to the `Handler` below it (10_state.md R23). -/
theorem finish_gives_back {s : State} {l : Latches} {ls : List Latches} (h : s.bank.saved = l :: ls) (c : ResultCode) :
    (s.finish c).bank = ⟨l, ls, c⟩ ∧ (s.finish c).ctx = s.ctx := by
  rw [finish_saved h]
  exact ⟨setBank_bank _ _, rfl⟩

/-- A waiting `Handler` is saved when a command of its callback is accepted (10_state.md R23). -/
theorem accept_calling {s : State} {g : Reference} (h : s.lat.calling = some g) (w : CommandWord) :
    (s.accept w).bank = ⟨s.lat.load w, s.lat :: s.bank.saved, s.bank.res⟩ := by
  rw [accept_bank, Bank.accept, bank_cur, h]

/-- A command that can be accepted is accepted in one step (30_encoding.md R91). -/
theorem step_present {s : State} {w : CommandWord} {rest : List Input} (hin : s.inputs = .present w :: rest)
    (hc : s.canAccept = true) : step s = .next ((s.withInputs rest).accept w) := by
  simp only [step, hin, State.serve, hc, if_true]

/-! The context that does not run. -/

theorem runContext_other {s t : State} (h : s.runContext = .next t) : t.bankOf s.ctx.other = s.bankOf s.ctx.other := by
  obtain ⟨-, rfl⟩ | ⟨-, m, -, rfl⟩ := runContext_next h
  · rfl
  · exact perform_other _ s

theorem callReturn_other (s : State) : s.callReturn.bankOf s.ctx.other = s.bankOf s.ctx.other := by
  unfold State.callReturn
  split
  · rw [bankOf_record, bankOf_other_setLat]
  · rfl

theorem dispatch_bankN (s : State) : s.dispatch.bankN = s.bankN := by
  unfold State.dispatch
  split <;> rfl

/-- In the interrupt context the bank of the other context is bank N. -/
theorem bankOf_other_interrupt {s : State} (h : s.ctx = .interrupt) (t : State) : t.bankOf s.ctx.other = t.bankN := by
  rw [h]; rfl

theorem step_interrupt_bankN {s t : State} (hx : s.ctx = .interrupt) (hr : ∀ rest, s.inputs ≠ .reset :: rest)
    (h : step s = .next t) : t.bankN = s.bankN := by
  have run : ∀ {u v : State}, u.ctx = .interrupt → u.runContext = .next v → v.bankN = u.bankN := fun hu hv => by
    rw [← bankOf_other_interrupt hu, runContext_other hv, bankOf_other_interrupt hu]
  unfold step at h
  split at h
  next => exact run hx h
  next input rest hin =>
    have hx' : (s.withInputs rest).ctx = .interrupt := hx
    cases input with
    | micro => exact (run hx' h :)
    | tick =>
      cases h
      obtain ⟨-, -, -, -, hN⟩ := tick_keeps (s.withInputs rest)
      exact hN
    | dispatch => cases h; exact dispatch_bankN _
    | present w =>
      simp only [State.serve] at h
      split at h
      next => cases h; simp [State.accept, State.setBank, hx]
      next => exact run hx h
    | callReturn =>
      simp only [State.serve] at h
      split at h
      next =>
        cases h
        rw [← bankOf_other_interrupt hx', callReturn_other, bankOf_other_interrupt hx']
        rfl
      next => exact run hx h
    | reset => exact absurd hin (hr rest)
    | unprivileged w => cases h
    | otherMaster sel v => cases h
    | svcHandler w => cases h

/-! A step that takes the input `micro`. -/

theorem step_micro {s : State} {rest : List Input} (hin : s.inputs = .micro :: rest) :
    step s = (s.withInputs rest).runContext := by
  simp only [step, hin, State.serve]

theorem runContext_eq_exec {s : State} {i : Instr} (hc : s.canAccept = false) (hd : decode s.latchedWord = .ok i) :
    s.runContext = exec i s := by
  have hf : s.fetch = .ok i := hd
  simp only [State.runContext, hc, hf, Bool.false_eq_true, if_false]

theorem runContext_waits {s : State} (hc : s.canAccept = true) : s.runContext = .next s := by
  simp only [State.runContext, hc, if_true]

end Sys2Proof.Machine

namespace Sys2Proof.Proofs

open Sys2Proof Sys2Proof.Machine

/-- Settles O16: only the result micro-step can record two events. -/
theorem aMicroStepRecordsOneEvent : Obligations.AMicroStepRecordsOneEvent := by
  intro i s t h hc
  obtain ⟨ha, -⟩ | ⟨-, m, rfl⟩ := exec_or_reserved_next h
  · rw [hc] at ha; cases ha
  · by_cases hm : ∃ c, m = .result c
    · obtain ⟨c, rfl⟩ := hm
      exact ⟨.result s.ctx s.lat.op c, finish_events c s⟩
    · obtain ⟨e, he, -⟩ := perform_history (fun c hc => hm ⟨c, hc⟩) s
      exact ⟨e, .inl he⟩

/-- Settles O40: a step whose one event is the command's result is the result micro-step. -/
theorem aCallbackCommandGivesTheHandlerBack : Obligations.ACallbackCommandGivesTheHandlerBack := by
  intro s w rest g hin hcall
  have hb := accept_calling (s := s.withInputs rest) hcall w
  have hsaved : ((s.withInputs rest).accept w).bank.saved = s.lat :: s.bank.saved := by rw [hb]; rfl
  refine ⟨_, step_present hin (by simp [State.canAccept, hcall]), accept_lat w (s.withInputs rest), hsaved, by rw [hb]; rfl,
    ⟨rfl, rfl, rfl, rfl, rfl, rfl⟩, ⟨rfl, rfl, rfl, rfl, rfl, rfl⟩, rfl, ⟨rfl, rfl⟩,
    ⟨rfl, rfl, bankOf_other_setBank _ (s.withInputs rest)⟩, rfl, rfl, rfl, rfl, rfl, ?_⟩
  intro i v t code hvx hvs hstep hhist
  have ht : t = v.finish code := by
    obtain ⟨-, x, rfl⟩ | ⟨-, m, rfl⟩ := exec_or_reserved_next hstep
    · simp at hhist
    · exact perform_eq_finish hhist
  subst ht
  obtain ⟨hbank, hx⟩ := finish_gives_back (hvs.trans hsaved) code
  exact ⟨by rw [State.lat, hbank], by rw [hbank], by rw [hx, hvx]; rfl, by rw [hbank], finish_onlyEnded code v⟩

/-- Settles O14. -/
theorem stepRunsTheDecodedInstruction : Obligations.StepRunsTheDecodedInstruction := by
  intro s i hc hd
  have hrun : s.runContext = exec i s := runContext_eq_exec hc hd
  refine ⟨fun hin => ?_, fun rest hin => ?_, fun w rest hin => ?_, fun rest hin => ?_⟩
  · simp only [step, hin, hrun]
  · rw [step_micro hin]
    exact runContext_eq_exec (s := s.withInputs rest) hc hd
  · simp only [step, hin, State.serve, hc, Bool.false_eq_true, if_false, hrun]
  · simp only [step, hin, State.serve, hc, Bool.false_eq_true, if_false, hrun]

/-- Settles O15. -/
theorem anIdleOrCallingBankWaits : Obligations.AnIdleOrCallingBankWaits := by
  intro s hc
  refine ⟨fun hin => ?_, fun rest hin => ?_⟩
  · simp only [step, hin, runContext_waits hc]
  · rw [step_micro hin]
    exact runContext_waits (s := s.withInputs rest) hc

/-- Settles O54. -/
theorem resetLeavesTheListedValues : Obligations.ResetLeavesTheListedValues :=
  ⟨rfl, fun r => by simp [State.reset, State.afterReset, Vector.get_eq_getElem], rfl, rfl, rfl, rfl, rfl, rfl, rfl, rfl,
    rfl, rfl, rfl, rfl, rfl, ⟨rfl, rfl⟩, ⟨rfl, rfl⟩, rfl, rfl, rfl, rfl⟩

end Sys2Proof.Proofs
end

section
/-! SUPPORT. What the micro-steps of each group of operations may touch, and what a micro-step of a kind leaves alone. -/

namespace Sys2Proof.Machine

/-- The timer's registers: selectors 49 to 51 (20_memory.md R70). -/
def Selector.isTimer : Selector → Bool
  | .tctrl => true
  | .treload => true
  | .tcurrent => true
  | _ => false

/-- A micro-step of the timer driver: it accesses no register but the timer's and drives no mask (42_timer_ops.md). -/
def Micro.onTimerSide : Micro → Bool
  | .read sel => sel.isTimer
  | .poll sel _ => sel.isTimer
  | .write sel _ => sel.isTimer
  | .setIMask _ => false
  | .setFMask _ => false
  | .raiseSvc => false
  | .loadCb => true
  | .storeCb _ => true
  | .callOut _ => true
  | .result _ => true

/-- A micro-step that accesses a register (20_memory.md R62, R63). -/
def Micro.accesses : Micro → Bool
  | .read _ => true
  | .poll _ _ => true
  | .write _ _ => true
  | _ => false

/-- A micro-step that writes the callback slot (10_state.md R47). -/
def Micro.storesCb : Micro → Bool
  | .storeCb _ => true
  | _ => false

/-- The mask a micro-step drives (10_state.md R49, R50). -/
def Micro.mask : Micro → Option Control
  | .setIMask _ => some .interruptMask
  | .setFMask _ => some .faultMask
  | _ => none

/-! What a micro-step of a kind leaves alone. -/

theorem perform_sameOutside (m : Micro) (s : State) : SameOutside s (s.perform m) := by
  cases m <;> simp [SameOutside, State.perform]

theorem regWrite_sameIrqController {sel : Selector} (h : sel.isTimer = true) (v : Word) (s : State) :
    SameIrqController s (s.regWrite sel v) := by
  cases sel with
  | tctrl => exact ⟨rfl, rfl, rfl, rfl, rfl, rfl⟩
  | treload => exact ⟨rfl, rfl, rfl, rfl, rfl, rfl⟩
  | tcurrent => exact ⟨rfl, rfl, rfl, rfl, rfl, rfl⟩
  | _ => cases h

theorem perform_sameIrqController {m : Micro} (h : m.onTimerSide = true) (s : State) : SameIrqController s (s.perform m) := by
  cases m with
  | write sel v => exact regWrite_sameIrqController h v s
  | read sel => simp [perform_read, SameIrqController, SamePriorities, SameSystemRegisters]
  | poll sel mask => simp [perform_poll, SameIrqController, SamePriorities, SameSystemRegisters]
  | result c => exact (finish_onlyEnded c s).1
  | _ => exact ⟨rfl, rfl, rfl, rfl, rfl, rfl⟩

theorem perform_sameTimer {m : Micro} (h : m.accesses = false) (s : State) : SameTimer s (s.perform m) := by
  cases m with
  | write sel v => cases h
  | read sel => cases h
  | poll sel mask => cases h
  | result c => exact (finish_onlyEnded c s).2.1
  | _ => exact ⟨rfl, rfl, rfl, rfl, rfl, rfl⟩

theorem perform_cb {m : Micro} (h : m.storesCb = false) (s : State) : (s.perform m).cb = s.cb := by
  cases m with
  | storeCb f => cases h
  | _ => simp [State.perform]

theorem perform_imask {m : Micro} (h : m.mask ≠ some .interruptMask) (s : State) : (s.perform m).imask = s.imask := by
  cases m with
  | setIMask b => exact absurd rfl h
  | _ => simp [State.perform]

theorem perform_fmask {m : Micro} (h : m.mask ≠ some .faultMask) (s : State) : (s.perform m).fmask = s.fmask := by
  cases m with
  | setFMask b => exact absurd rfl h
  | _ => simp [State.perform]

theorem mask_of_onTimerSide {m : Micro} (h : m.onTimerSide = true) : m.mask = none := by
  cases m with
  | setIMask b => cases h
  | setFMask b => cases h
  | _ => rfl

/-! What the micro-steps of an operation are. -/

/-- Whatever `Handler` has loaded, it loads, calls out or ends (42_timer_ops.md R178). -/
theorem microsHandler_forall {P : Micro → Prop} (hload : P .loadCb) (hcall : ∀ g, P (.callOut g))
    (hresult : ∀ c, P (.result c)) : ∀ m ∈ microsHandler, ∀ l, P (m l) := by
  have hsecond : ∀ f, P (handlerCall f) := fun f => by
    cases f with
    | none => exact hresult _
    | some g => exact hcall g
  simp [microsHandler, hload, hsecond, hresult]

/-- The timer-driver operations stay on the timer's side (42_timer_ops.md). -/
theorem micros_onTimerSide {i : Instr} (h : 7 ≤ i.opcode.toNat) (cfg : Config) :
    ∀ m ∈ microsOf cfg i, ∀ l, (m l).onTimerSide = true := by
  cases i with
  | init p => simp [microsOf, microsInit, Micro.onTimerSide, Selector.isTimer]
  | startBusyWait p => simp [microsOf, microsStartBusyWait, Micro.onTimerSide, Selector.isTimer]
  | setCallBack fn => simp [microsOf, microsSetCallBack, Micro.onTimerSide]
  | handler => exact microsHandler_forall (P := (·.onTimerSide = true)) rfl (fun _ => rfl) fun _ => rfl
  | start => simp [microsOf, microsStart, Micro.onTimerSide, Selector.isTimer]
  | stop => simp [microsOf, microsStop, Micro.onTimerSide, Selector.isTimer]
  | deInit => simp [microsOf, microsDeInit, Micro.onTimerSide, Selector.isTimer]
  | _ => simp [Instr.opcode] at h

/-- `Handler` and `SetCallBack` access no register (42_timer_ops.md R176, R178). -/
theorem micros_accesses {i : Instr} (h : i = .handler ∨ ∃ fn, i = .setCallBack fn) (cfg : Config) :
    ∀ m ∈ microsOf cfg i, ∀ l, (m l).accesses = false := by
  obtain rfl | ⟨fn, rfl⟩ := h
  · exact microsHandler_forall (P := (·.accesses = false)) rfl (fun _ => rfl) fun _ => rfl
  · simp [microsOf, microsSetCallBack, Micro.accesses]

/-- Of the timer-driver operations only `SetCallBack` and `DeInit` write the slot (42_timer_ops.md R176, R183). -/
theorem micros_storesCb {i : Instr} (h : 7 ≤ i.opcode.toNat) (hd : i ≠ .deInit) (hs : ∀ fn, i ≠ .setCallBack fn)
    (cfg : Config) : ∀ m ∈ microsOf cfg i, ∀ l, (m l).storesCb = false := by
  cases i with
  | init p => simp [microsOf, microsInit, Micro.storesCb]
  | startBusyWait p => simp [microsOf, microsStartBusyWait, Micro.storesCb]
  | setCallBack fn => exact absurd rfl (hs fn)
  | handler => exact microsHandler_forall (P := (·.storesCb = false)) rfl (fun _ => rfl) fun _ => rfl
  | start => simp [microsOf, microsStart, Micro.storesCb]
  | stop => simp [microsOf, microsStop, Micro.storesCb]
  | deInit => exact absurd rfl hd
  | _ => simp [Instr.opcode] at h

/-- A micro-step drives the mask that the descriptor of R99 gives its kind, and only enable and disable of a kind have one. -/
theorem micros_mask {cfg : Config} {i : Instr} {c : Control} :
    ∀ m ∈ microsOf cfg i, ∀ l, (m l).mask = some c →
      ∃ kind k, (i = .enableException kind ∨ i = .disableException kind) ∧ kindOf kind = some k
        ∧ enableDescriptor cfg k = c := by
  by_cases ht : 7 ≤ i.opcode.toNat
  · intro m hm l hc
    rw [mask_of_onTimerSide (micros_onTimerSide ht cfg m hm l)] at hc
    cases hc
  cases i with
  | enableIRQ id => simp only [microsOf, microsEnableIRQ]; split <;> simp [Micro.mask]
  | disableIRQ id => simp only [microsOf, microsDisableIRQ]; split <;> simp [Micro.mask]
  | setPriorityIRQ id p =>
    simp only [microsOf, microsSetPriorityIRQ]
    split <;> [skip; split] <;> simp [Micro.mask]
  | setPriorityException k p =>
    simp only [microsOf, microsSetPriorityException]
    split <;> [skip; split <;> [skip; split]] <;> simp [Micro.mask]
  | enableException kind =>
    simp only [microsOf, microsEnableException]
    split
    next => simp [Micro.mask]
    next k hk => split <;> simp_all [Micro.mask]
  | disableException kind =>
    simp only [microsOf, microsDisableException]
    split
    next => simp [Micro.mask]
    next k hk => split <;> simp_all [Micro.mask]
  | _ => exact absurd (by simp [Instr.opcode]) ht

theorem enableDescriptor_interruptMask {cfg : Config} {k : Kind} (h : enableDescriptor cfg k = .interruptMask) :
    k = .allInterrupts := by
  cases k <;> simp [enableDescriptor] at h ⊢

theorem enableDescriptor_faultMask {cfg : Config} {k : Kind} (h : enableDescriptor cfg k = .faultMask) :
    k = .hardFault := by
  cases k <;> simp [enableDescriptor] at h ⊢

/-- The numbers of the two kinds that have a mask (30_encoding.md R94). -/
theorem kindOf_masked {kind : Byte} :
    (kindOf kind = some .allInterrupts → kind = 10) ∧ (kindOf kind = some .hardFault → kind = 2) := by
  constructor <;>
  · intro h
    unfold kindOf at h
    split at h <;> simp at h
    exact BitVec.eq_of_toNat_eq ‹_›

/-- A micro-step of the interrupt context leaves bank N alone (10_state.md R23). -/
theorem perform_interrupt_bankN {s : State} (m : Micro) (hx : s.ctx = .interrupt) : (s.perform m).bankN = s.bankN := by
  rw [← bankOf_other_interrupt hx, perform_other, bankOf_other_interrupt hx]

/-! The run of a `Handler` that finds the slot empty (60_exceptions.md R212, R213). -/

/-- With the input `micro`, a `Handler` in progress makes the micro-step USTEP names. -/
theorem step_handler {s : State} {rest : List Input} {k : Nat} {m : Latches → Micro} (hin : s.inputs = .micro :: rest)
    (ho : s.lat.op = 0x0A) (hk : s.AtStep (k + 1)) (hm : microsHandler[k]? = some m) :
    step s = .next ((s.withInputs rest).perform (m s.lat)) := by
  have hd : decode (s.withInputs rest).latchedWord = .ok .handler := decode_handler (by simp [State.latchedWord, ho])
  have hk' : (s.withInputs rest).AtStep (k + 1) := hk
  rw [step_micro hin, runContext_eq_exec (canAccept_eq_false hk') hd]
  exact exec_at_step hk' hm

theorem step_dispatch {s : State} {rest : List Input} (hin : s.inputs = .dispatch :: rest)
    (hen : s.dispatchEnabled = true) : step s = .next (s.withInputs rest).enterHandler := by
  have hen' : (s.withInputs rest).dispatchEnabled = true := hen
  simp only [step, hin, State.serve, State.dispatch, hen', if_true]

/-- An idle bank I holds just `Handler` after the dispatch (60_exceptions.md R210). -/
theorem enterHandler_bank {s : State} (hidle : s.bankI.cur.Idle) (hsaved : s.bankI.saved = []) :
    s.enterHandler.bank = ⟨s.bankI.cur.load handlerWord, [], s.bankI.res⟩ := by
  show s.bankI.accept handlerWord = _
  rw [Bank.accept, hidle.2, hsaved]

/-- The last state of the run: entered, the empty slot loaded, ended with the handler return. -/
def State.preempted (s : State) : State :=
  ((((s.withInputs [.micro, .micro]).enterHandler.withInputs [.micro]).perform .loadCb).withInputs []).finish .nopNoCallback

theorem run_emptyHandler {s : State} (hen : s.dispatchEnabled = true) (hidle : s.bankI.cur.Idle)
    (hsaved : s.bankI.saved = []) (hcb : s.cb = none) :
    core.run 3 { s with inputs := [.dispatch, .micro, .micro] } = .next s.preempted := by
  have hb := enterHandler_bank (s := s.withInputs [.micro, .micro]) hidle hsaved
  have hl : ((s.withInputs [.micro, .micro]).enterHandler).lat = s.bankI.cur.load handlerWord := by rw [State.lat, hb]; rfl
  have h1 : step { s with inputs := [.dispatch, .micro, .micro] } = .next (s.withInputs [.micro, .micro]).enterHandler :=
    step_dispatch (s := s.withInputs [.dispatch, .micro, .micro]) rfl hen
  have h2 := step_handler (s := (s.withInputs [.micro, .micro]).enterHandler) (k := 0) (m := fun _ => .loadCb) rfl
    (by rw [hl]; rfl) (by rw [State.AtStep, hl]; exact ⟨rfl, rfl⟩) rfl
  have h3 := step_handler (s := ((s.withInputs [.micro, .micro]).enterHandler.withInputs [.micro]).perform .loadCb)
    (k := 1) (m := fun l => handlerCall l.f) rfl
    (by simp [perform_loadCb, hl]; rfl) (by simp [State.AtStep, perform_loadCb, hl, Latches.load]) rfl
  rw [run_next h1, run_next h2, run_next h3]
  simp [perform_loadCb, handlerCall, State.enterHandler, hcb, Host.Core.run, State.preempted, perform_result]

theorem preempted_context {s : State} (hidle : s.bankI.cur.Idle) (hsaved : s.bankI.saved = []) :
    s.preempted.bankN = s.bankN ∧ s.preempted.ctx = .normal ∧ s.preempted.handlerActive = false
      ∧ s.preempted.bankI.cur.Idle ∧ s.preempted.bankI.res = .nopNoCallback := by
  have hs : (s.withInputs [.micro, .micro]).enterHandler.bank.saved = [] := by
    rw [enterHandler_bank (s := s.withInputs [.micro, .micro]) hidle hsaved]
  have hx : (s.withInputs [.micro, .micro]).enterHandler.ctx = .interrupt := rfl
  generalize hu : (s.withInputs [.micro, .micro]).enterHandler = u at hs hx
  have hN : u.bankN = s.bankN := by rw [← hu]; rfl
  obtain ⟨htN, htI, htx, hta⟩ := finish_interrupt_context
    (s := ((u.withInputs [.micro]).perform .loadCb).withInputs []) (by simpa [perform_loadCb] using hs)
    (by simpa [perform_loadCb] using hx) .nopNoCallback
  have hload := perform_interrupt_bankN (s := u.withInputs [.micro]) .loadCb hx
  rw [State.preempted, hu, htI]
  exact ⟨htN.trans (hload.trans hN), htx, hta, ⟨rfl, rfl⟩, rfl⟩

theorem preempted_frame (s : State) :
    s.preempted.tickPending = false ∧ SameIrqController s s.preempted ∧ SameTimer s s.preempted
      ∧ s.preempted.cb = s.cb ∧ SameMasks s s.preempted := by
  simp [State.preempted, perform_loadCb, State.enterHandler, SameIrqController, SamePriorities, SameSystemRegisters,
    SameTimer, SameMasks]

end Sys2Proof.Machine

namespace Sys2Proof.Proofs

open Sys2Proof Sys2Proof.Machine

/-- Settles O53: in the interrupt context each agent's step leaves bank N alone, and the run of the `Handler` is dispatch, the load
of the empty slot, and the result with the handler return. -/
theorem preemptionLeavesTheNormalBankAlone : Obligations.PreemptionLeavesTheNormalBankAlone := by
  refine ⟨fun s t hx hr h => step_interrupt_bankN hx hr h, fun s hen hidle hsaved hcb => ?_⟩
  refine ⟨_, run_emptyHandler (s := s) hen hidle hsaved hcb, ?_⟩
  obtain ⟨hN, hx, hact, hcur, hres⟩ := preempted_context hidle hsaved
  obtain ⟨hpend, hirq, htimer, hslot, hmasks⟩ := preempted_frame s
  exact ⟨hN, hx, hact, hpend, hcur, hres, hirq, htimer, hslot, hmasks⟩

/-- Settles O46: every micro-step of these operations is on the timer's side. -/
theorem timerOperationFrame : Obligations.TimerOperationFrame := by
  intro i s t h hop
  obtain ⟨hother, hnormal⟩ := exec_outside h
  have hgoes := exec_goes_on h
  obtain ⟨-, rfl⟩ | ⟨-, m, hm, rfl⟩ := exec_next h
  · exact ⟨⟨rfl, rfl, rfl, rfl, rfl, rfl⟩, ⟨rfl, rfl⟩, ⟨rfl, rfl, rfl, rfl⟩, fun _ => ⟨rfl, rfl, rfl, rfl, rfl, rfl⟩,
      fun _ _ => rfl, hother, hnormal, hgoes⟩
  · have hside := micros_onTimerSide hop s.cfg m hm s.lat
    have hmask := mask_of_onTimerSide hside
    exact ⟨perform_sameIrqController hside s, ⟨perform_imask (by simp [hmask]) s, perform_fmask (by simp [hmask]) s⟩,
      perform_sameOutside _ s, fun hi => perform_sameTimer (micros_accesses hi s.cfg m hm s.lat) s,
      fun hd hs => perform_cb (micros_storesCb hop hd hs s.cfg m hm s.lat) s, hother, hnormal, hgoes⟩

/-- Settles O47: a mask that changed was driven by a micro-step whose kind has that mask. -/
theorem onlyTwoKindsWriteTheMasks : Obligations.OnlyTwoKindsWriteTheMasks := by
  intro i s t h
  obtain ⟨-, rfl⟩ | ⟨-, m, hm, rfl⟩ := exec_next h
  · exact ⟨fun hne => absurd rfl hne, fun hne => absurd rfl hne⟩
  · refine ⟨fun hne => ?_, fun hne => ?_⟩
    · have hd : (m s.lat).mask = some .interruptMask := not_not.mp fun hd => hne (perform_imask hd s)
      obtain ⟨kind, k, hi, hk, hc⟩ := micros_mask m hm s.lat hd
      obtain rfl := enableDescriptor_interruptMask hc
      rwa [kindOf_masked.1 hk] at hi
    · have hd : (m s.lat).mask = some .faultMask := not_not.mp fun hd => hne (perform_fmask hd s)
      obtain ⟨kind, k, hi, hk, hc⟩ := micros_mask m hm s.lat hd
      obtain rfl := enableDescriptor_faultMask hc
      rwa [kindOf_masked.2 hk] at hi

end Sys2Proof.Proofs
end

section
/-! SUPPORT. The bits of an inserted field (20_memory.md R67). -/

namespace Sys2Proof.Machine

/-- The three low bits, the only ones of `7`. -/
theorem seven_bit (j : Nat) : (7#32).getLsbD j = decide (j < 3) := by
  have h : Nat.testBit 7 j = decide (j < 3) := Nat.testBit_two_pow_sub_one 3 j
  rw [BitVec.getLsbD_ofNat, h]
  by_cases hj : j < 3
  · simp [hj, show j < 32 by omega]
  · simp [hj]

theorem fieldMask_bit {o : Nat} (ho : o + 3 ≤ 32) (j : Nat) :
    (fieldMask o).getLsbD j = decide (o ≤ j ∧ j < o + 3) := by
  rw [fieldMask, BitVec.getLsbD_shiftLeft, seven_bit]
  simp only [← Bool.decide_and, ← decide_not]
  exact decide_eq_decide.mpr (by omega)

/-- `priority[2:0]`, moved to offset `o`. -/
theorem prioField_shiftLeft_bit (p : Word) {o : Nat} (ho : o + 3 ≤ 32) (j : Nat) :
    (prioField p <<< o).getLsbD j = (decide (o ≤ j ∧ j < o + 3) && p.getLsbD (j - o)) := by
  rw [← fieldMask_bit ho, fieldMask, prioField]
  simp only [BitVec.getLsbD_shiftLeft, BitVec.getLsbD_and]
  ac_rfl

/-- A field of three bits below bit 32 holds `priority[2:0]`; every other bit is kept (20_memory.md R67). -/
theorem insertField_bit (t p : Word) {o : Nat} (ho : o + 3 ≤ 32) (j : Nat) :
    (insertField t o (prioField p)).getLsbD j
      = if o ≤ j ∧ j < o + 3 then p.getLsbD (j - o) else t.getLsbD j := by
  simp only [insertField, BitVec.getLsbD_or, BitVec.getLsbD_and, BitVec.getLsbD_not, fieldMask_bit ho,
    prioField_shiftLeft_bit p ho]
  by_cases hfield : o ≤ j ∧ j < o + 3
  · simp [hfield]
  · by_cases hj : j < 32
    · simp [hfield, hj]
    · simp [hfield, BitVec.getLsbD_of_ge t j (by omega)]

end Sys2Proof.Machine

namespace Sys2Proof.Proofs

open Sys2Proof Sys2Proof.Machine

/-- Settles O6: each of the four fields ends below bit 32. -/
theorem insertFieldTouchesOnlyItsThreeBits : Obligations.InsertFieldTouchesOnlyItsThreeBits := by
  intro t p o j ho
  have hlt : o + 3 ≤ 32 := by
    simp only [List.mem_cons, List.not_mem_nil, or_false] at ho
    omega
  exact insertField_bit t p hlt j

/-- Settles O8. -/
theorem onlyTheTctrlReadHasASideEffect : Obligations.OnlyTheTctrlReadHasASideEffect := by
  intro sel s
  refine ⟨fun hne => ?_, fun h => by rw [h]; rfl⟩
  cases sel with
  | tctrl => exact absurd rfl hne
  | _ => rfl

end Sys2Proof.Proofs
end

section
/-! SUPPORT. The numbers and addresses of the selectors, and the byte view (20_memory.md R64, R70, R71). -/

namespace Sys2Proof.Machine

theorem mem_allSelectors (a : Selector) : a ∈ allSelectors := by
  cases a <;> simp [allSelectors]

/-- The numbers of the selectors, in the order of R70, are 0 to 51. -/
theorem allSelectors_numbers : allSelectors.map selectorNumber = List.range 52 := by decide

theorem selectorNumber_injective {a b : Selector} (h : selectorNumber a = selectorNumber b) : a = b :=
  List.inj_on_of_nodup_map (allSelectors_numbers ▸ List.nodup_range) (mem_allSelectors a) (mem_allSelectors b) h

theorem selectorNumber_surjective {n : Nat} (h : n < 52) : ∃ a, selectorNumber a = n := by
  rw [← List.mem_range, ← allSelectors_numbers, List.mem_map] at h
  obtain ⟨a, -, ha⟩ := h
  exact ⟨a, ha⟩

theorem addrMap_getElem (cfg : Config) (a : Selector) (h : selectorNumber a < cfg.addrMap.toList.length) :
    cfg.addrMap.toList[selectorNumber a] = selectorAddress cfg a := by
  simp [selectorAddress, Vector.get_eq_getElem]

theorem addrMap_getD (cfg : Config) (a : Selector) :
    cfg.addrMap.toList.getD (selectorNumber a) 0 = selectorAddress cfg a := by
  have h : selectorNumber a < cfg.addrMap.toList.length := by simp [selectorNumber_lt]
  rw [List.getD_eq_getElem _ _ h, addrMap_getElem]

theorem selectorAddress_machine (a : Selector) : selectorAddress Config.machine a = defaultAddress (selectorNumber a) := by
  have hmap : Config.machine.addrMap.toList = (List.range 52).map defaultAddress := rfl
  rw [← addrMap_getD, hmap]
  simp [selectorNumber_lt]

/-- The default addresses of the three banks of registers (20_memory.md R71). -/
theorem defaultAddress_banks :
    (∀ r, r < 5 → defaultAddress r = 0xE000E100 + 4 * r)
      ∧ (∀ r, r < 5 → defaultAddress (5 + r) = 0xE000E180 + 4 * r)
      ∧ (∀ r, r < 35 → defaultAddress (10 + r) = 0xE000E400 + 4 * r) := by
  refine ⟨fun r hr => ?_, fun r hr => ?_, fun r hr => ?_⟩ <;> unfold defaultAddress
  · rw [if_pos hr]
  · rw [if_neg (by omega), if_pos (by omega)]; omega
  · rw [if_neg (by omega), if_neg (by omega), if_pos (by omega)]; omega

theorem machine_addrMapWellFormed : Config.machine.addrMapWellFormed = true := by
  decide

/-- What a well-formed ADDR_MAP says, selector by selector (20_memory.md R65, R71). -/
theorem addrMapWellFormed_addresses {cfg : Config} (h : cfg.addrMapWellFormed = true) :
    (∀ a, selectorAddress cfg a % 4 = 0)
      ∧ (∀ a b, selectorAddress cfg a = selectorAddress cfg b → a = b)
      ∧ cfg.fourApart 0 5 = true ∧ cfg.fourApart 5 5 = true ∧ cfg.fourApart 10 35 = true := by
  simp only [Config.addrMapWellFormed, Bool.and_eq_true, List.all_eq_true, beq_iff_eq, decide_eq_true_eq] at h
  obtain ⟨⟨⟨⟨hmod, hnodup⟩, hen⟩, hdis⟩, hpri⟩ := h
  have hlt : ∀ a, selectorNumber a < cfg.addrMap.toList.length := fun a => by simp [selectorNumber_lt]
  refine ⟨fun a => ?_, fun a b hab => ?_, hen, hdis, hpri⟩
  · rw [← addrMap_getElem cfg a (hlt a)]
    exact hmod _ (List.getElem_mem _)
  · rw [← addrMap_getElem cfg a (hlt a), ← addrMap_getElem cfg b (hlt b)] at hab
    exact selectorNumber_injective (hnodup.getElem_inj_iff.mp hab)

theorem fourApart_address {cfg : Config} {first count : Nat} (h : cfg.fourApart first count = true) {a b : Selector} {r : Nat}
    (hr : r < count) (ha : selectorNumber a = first + r) (hb : selectorNumber b = first) :
    selectorAddress cfg a = selectorAddress cfg b + 4 * r := by
  simp only [Config.fourApart, List.all_eq_true, List.mem_range, beq_iff_eq] at h
  have hr := h r hr
  rwa [← ha, ← hb, addrMap_getD, addrMap_getD] at hr

/-- Under aligned and distinct addresses, the byte `k` of a register is at no other register's address (20_memory.md R64). -/
theorem addressLane_selectorAddress {cfg : Config} (hmod : ∀ a, selectorAddress cfg a % 4 = 0)
    (hinj : ∀ a b, selectorAddress cfg a = selectorAddress cfg b → a = b) (a : Selector) (k : Fin 4) :
    addressLane cfg (selectorAddress cfg a + k.val) = some (a, k) := by
  have hk := k.isLt
  unfold addressLane
  split
  next b hb =>
    have hrange := List.find?_some hb
    simp only [Bool.and_eq_true, decide_eq_true_eq] at hrange
    have hma := hmod a
    have hmb := hmod b
    obtain rfl : b = a := hinj b a (by omega)
    have hlane : (selectorAddress cfg b + k.val - selectorAddress cfg b) % 4 = k.val := by omega
    exact congrArg (fun lane => some (b, lane)) (Fin.ext hlane)
  next hnone =>
    have hnot := List.find?_eq_none.mp hnone a (mem_allSelectors a)
    exact absurd (by simp [hk]) hnot

theorem surfaceByte_selectorAddress {s : State} (hmod : ∀ a, selectorAddress s.cfg a % 4 = 0)
    (hinj : ∀ a b, selectorAddress s.cfg a = selectorAddress s.cfg b → a = b) (a : Selector) (k : Fin 4) :
    s.surfaceByte (selectorAddress s.cfg a + k.val) = some (wordByte (s.regValue a) k) := by
  simp only [State.surfaceByte, addressLane_selectorAddress hmod hinj]

end Sys2Proof.Machine

namespace Sys2Proof.Proofs

open Sys2Proof Sys2Proof.Machine

/-- Settles O7: the selectors in their order have the numbers 0 to 51, and what holds of an address follows from its number. -/
theorem selectorsAreNumberedWithoutRepeats : Obligations.SelectorsAreNumberedWithoutRepeats := by
  refine ⟨⟨fun r => (Nat.zero_add _).symm, fun _ => rfl, fun _ => rfl, rfl, rfl, rfl, rfl, rfl, rfl, rfl⟩,
    selectorNumber_lt, fun _ _ h => selectorNumber_injective h, fun _ h => selectorNumber_surjective h, ?_,
    machine_addrMapWellFormed, fun s h => ?_⟩
  · simp only [selectorAddress_machine]
    obtain ⟨hen, hdis, hpri⟩ := defaultAddress_banks
    exact ⟨fun r => hen r r.isLt, fun r => hdis r r.isLt, fun r => hpri r r.isLt, rfl, rfl, rfl, rfl, rfl, rfl, rfl⟩
  · obtain ⟨hmod, hinj, hen, hdis, hpri⟩ := addrMapWellFormed_addresses h
    exact ⟨hmod, hinj, fun r => fourApart_address hen r.isLt (Nat.zero_add _).symm rfl,
      fun r => fourApart_address hdis r.isLt rfl rfl, fun r => fourApart_address hpri r.isLt rfl rfl,
      fun a k hk => surfaceByte_selectorAddress hmod hinj a ⟨k, hk⟩⟩

end Sys2Proof.Proofs
end

section
/-! SUPPORT. The one register an IRQ operation accesses, and what its micro-steps leave alone (40_irq_ops.md). -/

namespace Sys2Proof.Machine

/-- `IrqTarget i sel`: `sel` is the register of the identifier of the IRQ operation `i` (30_encoding.md R96, R97). -/
inductive IrqTarget : Instr → Selector → Prop where
  | enableIRQ (id : Byte) (r : Fin 5) : r.val = id.toNat / 32 → IrqTarget (.enableIRQ id) (.en r)
  | disableIRQ (id : Byte) (r : Fin 5) : r.val = id.toNat / 32 → IrqTarget (.disableIRQ id) (.dis r)
  | setPriorityIRQ (id : Byte) (priority : Word) (r : Fin 35) : r.val = id.toNat / 4 →
      IrqTarget (.setPriorityIRQ id priority) (.pri r)

/-- A micro-step that accesses a register of `P`, or is a result. -/
def Micro.OnlyOn (P : Selector → Prop) : Micro → Prop
  | .read sel => P sel
  | .write sel _ => P sel
  | .result _ => True
  | _ => False

/-- Nothing of `t` is other than in `s` but the banks, the context and the history. -/
abbrev SameStorage (s t : State) : Prop :=
  SameIrqController s t ∧ SameTimer s t ∧ t.cb = s.cb ∧ SameMasks s t ∧ SameOutside s t

theorem irqInRange_val {cfg : Config} {id : Byte} {x : Irq} (h : irqInRange cfg id = some x) : x.val = id.toNat := by
  unfold irqInRange at h
  split at h
  · rw [← Option.some.inj h]
  · cases h

theorem enableReg_val {cfg : Config} {id : Byte} {x : Irq} (h : irqInRange cfg id = some x) :
    (enableReg x).val = id.toNat / 32 := by
  simp only [enableReg, irqInRange_val h]

theorem priorityReg_val {cfg : Config} {id : Byte} {x : Irq} (h : irqInRange cfg id = some x) :
    (priorityReg x).val = id.toNat / 4 := by
  simp only [priorityReg, irqInRange_val h]

/-- Each micro-step of an IRQ operation accesses its one register or is a result (40_irq_ops.md R120, R122, R124). -/
theorem micros_onlyOn_irqTarget {i : Instr} {id : Byte} {priority : Word}
    (hi : i = .enableIRQ id ∨ i = .disableIRQ id ∨ i = .setPriorityIRQ id priority) (cfg : Config) :
    ∀ m ∈ microsOf cfg i, ∀ l, (m l).OnlyOn (IrqTarget i) := by
  obtain rfl | rfl | rfl := hi
  · simp only [microsOf, microsEnableIRQ]
    split
    next => simp [Micro.OnlyOn]
    next x hx => simp [Micro.OnlyOn, IrqTarget.enableIRQ id _ (enableReg_val hx)]
  · simp only [microsOf, microsDisableIRQ]
    split
    next => simp [Micro.OnlyOn]
    next x hx => simp [Micro.OnlyOn, IrqTarget.disableIRQ id _ (enableReg_val hx)]
  · simp only [microsOf, microsSetPriorityIRQ]
    split
    next => simp [Micro.OnlyOn]
    next x hx => split <;> simp [Micro.OnlyOn, IrqTarget.setPriorityIRQ id priority _ (priorityReg_val hx)]

/-- A micro-step on registers of `P` leaves the storage as it was, or as a write of one of them leaves it. TCTRL, whose read has
a side effect (20_memory.md R68), is not among them. -/
theorem perform_onlyOn {P : Selector → Prop} (hP : ¬ P .tctrl) {m : Micro} (h : m.OnlyOn P) (s : State) :
    SameStorage s (s.perform m) ∨ ∃ sel v, P sel ∧ SameStorage (s.regWrite sel v) (s.perform m) := by
  cases m with
  | read sel =>
    have hne : sel ≠ .tctrl := fun he => hP (he ▸ h)
    exact .inl (by simp [SameStorage, SameIrqController, SamePriorities, SameSystemRegisters, SameTimer, SameMasks,
      SameOutside, perform_read, hne])
  | write sel v =>
    exact .inr ⟨sel, v, h, by simp [SameStorage, SameIrqController, SamePriorities, SameSystemRegisters, SameTimer,
      SameMasks, SameOutside, perform_write]⟩
  | result c =>
    obtain ⟨hirq, htimer, hcb, hmasks, hout, -⟩ := finish_onlyEnded c s
    exact .inl ⟨hirq, htimer, hcb, hmasks, hout⟩
  | _ => exact h.elim

/-- A write of the register of an IRQ operation changes IEN or the priority registers only (20_memory.md R63). -/
theorem irqTarget_regWrite_frame {i : Instr} {sel : Selector} {v : Word} {s t : State} (h : IrqTarget i sel)
    (ht : SameStorage (s.regWrite sel v) t) :
    SameSystemRegisters s t ∧ SameTimer s t ∧ t.cb = s.cb ∧ SameMasks s t ∧ SameOutside s t := by
  obtain ⟨⟨-, -, hsys⟩, hrest⟩ := ht
  cases h <;> exact ⟨hsys, hrest⟩

/-- What a step of an IRQ operation leaves of the storage: all of it, but for what one write of its register may change in IEN
and the priority registers. -/
theorem exec_irq_storage {i : Instr} {id : Byte} {priority : Word} {s t : State} (h : exec i s = .next t)
    (hi : i = .enableIRQ id ∨ i = .disableIRQ id ∨ i = .setPriorityIRQ id priority) :
    (SameSystemRegisters s t ∧ SameTimer s t ∧ t.cb = s.cb ∧ SameMasks s t ∧ SameOutside s t)
      ∧ ((t.ien = s.ien ∧ t.pri = s.pri)
        ∨ ∃ sel v, IrqTarget i sel ∧ t.ien = (s.regWrite sel v).ien ∧ t.pri = (s.regWrite sel v).pri) := by
  obtain ⟨-, rfl⟩ | ⟨-, m, hm, rfl⟩ := exec_next h
  · exact ⟨⟨⟨rfl, rfl, rfl, rfl⟩, ⟨rfl, rfl, rfl, rfl, rfl, rfl⟩, rfl, ⟨rfl, rfl⟩, rfl, rfl, rfl, rfl⟩,
      .inl ⟨rfl, rfl⟩⟩
  · have hon := micros_onlyOn_irqTarget hi s.cfg m hm s.lat
    obtain ⟨⟨hien, hpri, hsys⟩, hrest⟩ | ⟨sel, v, hsel, hsame⟩ := perform_onlyOn (fun ht => nomatch ht) hon s
    · exact ⟨⟨hsys, hrest⟩, .inl ⟨hien, hpri⟩⟩
    · exact ⟨irqTarget_regWrite_frame hsel hsame, .inr ⟨sel, v, hsel, hsame.1.1, hsame.1.2.1⟩⟩

/-- The bits of IEN outside a word are outside the place of its `EN(r)` (30_encoding.md R96). -/
theorem ienPlace_outside {r : Fin 5} {j : Nat} (h : j / 32 ≠ r.val) (v : Word) : (ienPlace r v).getLsbD j = false := by
  have hout : ¬ (32 * r.val ≤ j ∧ j < 32 * r.val + 32) := by omega
  rw [ienPlace_bit, decide_eq_false hout, Bool.false_and]

theorem regWrite_pri_other {r q : Fin 35} (h : q.val ≠ r.val) (v : Word) (s : State) :
    (s.regWrite (.pri r) v).pri.get q = s.pri.get q := by
  simp [regWrite_pri, Vector.get_eq_getElem, Vector.getElem_set_ne _ _ (Ne.symm h)]

end Sys2Proof.Machine

namespace Sys2Proof.Proofs

open Sys2Proof Sys2Proof.Machine

/-- Settles O44: a step of an IRQ operation changes no storage, or what a write of its one register changes. -/
theorem irqOperationFrame : Obligations.IrqOperationFrame := by
  intro i id priority s t h hi
  obtain ⟨hother, hnormal⟩ := exec_outside h
  obtain ⟨⟨hsys, htimer, hcb, hmasks, hout⟩, hwrite⟩ := exec_irq_storage h hi
  have hgoes := exec_goes_on h
  obtain ⟨hien, hpri⟩ | ⟨sel, v, hsel, hien, hpri⟩ := hwrite
  · exact ⟨fun j _ => by rw [hien], fun _ j hj => by rwa [hien], fun _ j hj => by rwa [← hien], fun _ => hien,
      fun r _ => by rw [hpri], fun _ => hpri, hsys, htimer, hcb, hmasks, hout, hother, hnormal, hgoes⟩
  · cases hsel with
    | enableIRQ id' r hr =>
      obtain rfl : id' = id := by simpa using hi
      exact ⟨fun j hj => by rw [hien, regWrite_en_bit, ienPlace_outside (hr ▸ hj), Bool.or_false],
        fun _ j hj => by rw [hien, regWrite_en_bit, hj, Bool.true_or], nofun, nofun,
        fun r _ => by rw [hpri]; rfl, fun _ => hpri, hsys, htimer, hcb, hmasks, hout, hother, hnormal, hgoes⟩
    | disableIRQ id' r hr =>
      obtain rfl : id' = id := by simpa using hi
      exact ⟨fun j hj => by rw [hien, regWrite_dis_bit, ienPlace_outside (hr ▸ hj), Bool.not_false, Bool.and_true], nofun,
        fun _ j hj => by rw [hien, regWrite_dis_bit, Bool.and_eq_true] at hj; exact hj.1, nofun,
        fun r _ => by rw [hpri]; rfl, fun _ => hpri, hsys, htimer, hcb, hmasks, hout, hother, hnormal, hgoes⟩
    | setPriorityIRQ id' p r hr =>
      obtain ⟨rfl, rfl⟩ : id' = id ∧ p = priority := by simpa using hi
      exact ⟨fun j _ => by rw [hien]; rfl, nofun, nofun, fun _ => hien,
        fun q hq => by rw [hpri, regWrite_pri_other (hr ▸ hq)], fun hne => absurd rfl hne,
        hsys, htimer, hcb, hmasks, hout, hother, hnormal, hgoes⟩

end Sys2Proof.Proofs
end

section
/-! SUPPORT. A sound state goes on (60_exceptions.md R200). -/

namespace Sys2Proof.Machine

/-- A command in progress goes on as the command whose word is latched (10_state.md R21). -/
theorem runContext_eq_command {s : State} (hc : s.canAccept = false) :
    ∃ w, s.runContext = s.command w (microsOfWord s.cfg s.lat.word) := by
  unfold microsOfWord
  cases hd : decode s.lat.word with
  | ok i => exact ⟨encode i, by rw [runContext_eq_exec hc hd, exec_eq_command]⟩
  | error e =>
    have hf : s.fetch = .error e := hd
    exact ⟨s.latchedWord, by simp only [State.runContext, hc, hf]; rfl⟩

/-- The executing context never stops: USTEP names a micro-step of the command in progress (10_state.md R24). -/
theorem runContext_total {s : State} (h : s.Inv) : ∃ t, s.runContext = .next t := by
  cases hc : s.canAccept with
  | true => exact ⟨s, runContext_waits hc⟩
  | false =>
    obtain ⟨w, hw⟩ := runContext_eq_command hc
    obtain ⟨-, hpos, hlen⟩ := inv_running h hc
    rw [hw]
    refine (command_total w _ s).resolve_right fun ⟨_, hnone, _⟩ => ?_
    rw [List.getElem?_eq_none_iff] at hnone
    omega

theorem serve_total {s : State} (h : s.Inv) {input : Input} (ha : InputAdmitted input = true) (rest : List Input) :
    ∃ t, s.serve input rest = .next t := by
  cases input with
  | micro => exact runContext_total (withInputs_inv h rest)
  | tick => exact ⟨_, rfl⟩
  | dispatch => exact ⟨_, rfl⟩
  | present w =>
    simp only [State.serve]
    split
    · exact ⟨_, rfl⟩
    · exact runContext_total h
  | callReturn =>
    simp only [State.serve]
    split
    · exact ⟨_, rfl⟩
    · exact runContext_total h
  | reset => exact ⟨_, rfl⟩
  | unprivileged w => cases ha
  | otherMaster sel v => cases ha
  | svcHandler w => cases ha

end Sys2Proof.Machine

namespace Sys2Proof.Proofs

open Sys2Proof Sys2Proof.Machine

/-- Settles O58: in a sound state the executing context always has a micro-step to make or waits. -/
theorem noAdmittedStepStops : Obligations.NoAdmittedStepStops := by
  intro s h hadm
  unfold step
  cases hin : s.inputs with
  | nil => exact runContext_total h
  | cons x rest => exact serve_total h (hadm x rest hin) rest

end Sys2Proof.Proofs
end

section
/-! SUPPORT. What the decoder reads from the fields of a command word (30_encoding.md R93, R95, R104), and the acceptance of a
command (R91). -/

namespace Sys2Proof.Machine

/-- The word a callback operand came from (30_encoding.md R92). -/
theorem wordOfCallback_callbackOfWord (b : Word) : wordOfCallback (callbackOfWord b) = b := by
  unfold callbackOfWord
  split
  next h => exact h.symm
  next => rfl

theorem decode_encode (i : Instr) : decode (encode i) = decodeFields i.opcode i.fieldA i.fieldB := by
  simp only [decode, encode_op, encode_a, encode_b]

theorem decodeFields_opcode {op a : Byte} {b : Word} {i : Instr} (h : decodeFields op a b = .ok i) : i.opcode = op := by
  unfold decodeFields at h
  split at h <;> cases h
  all_goals exact BitVec.eq_of_toNat_eq (Eq.symm ‹_›)

/-- The operands of a decoded operation are the fields of R93, and its ignored fields are encoded as 0 (30_encoding.md R95). -/
theorem decodeFields_operands {op a : Byte} {b : Word} {i : Instr} (h : decodeFields op a b = .ok i) :
    i.wellFormed = true ∧ i.fieldA = (if op.toNat ≤ 6 then a else 0)
      ∧ i.fieldB = (if op.toNat ∈ [3, 6, 7, 8, 9] then b else 0) := by
  obtain rfl := decodeFields_opcode h
  cases i with
  | setCallBack fn =>
    obtain rfl : callbackOfWord b = fn := by simpa [decodeFields, Instr.opcode] using h
    exact ⟨callbackOfWord_wellFormed b, rfl, wordOfCallback_callbackOfWord b⟩
  | _ => cases h; exact ⟨rfl, rfl, rfl⟩

/-- Only operations 1 to 6 have an operand in `a` (30_encoding.md R93). -/
theorem decodeFields_ignores_a {op : Byte} (h : op.toNat ∉ [1, 2, 3, 4, 5, 6]) (a a' : Byte) (b : Word) :
    decodeFields op a b = decodeFields op a' b := by
  unfold decodeFields
  split <;> simp_all

/-- Only operations 3 and 6 to 9 have an operand in `b` (30_encoding.md R93). -/
theorem decodeFields_ignores_b {op : Byte} (h : op.toNat ∉ [3, 6, 7, 8, 9]) (a : Byte) (b b' : Word) :
    decodeFields op a b = decodeFields op a b' := by
  unfold decodeFields
  split <;> simp_all

/-- The opcodes R93 does not list. -/
def ReservedOpcode (op : Byte) : Prop := op = 0 ∨ 0x0E ≤ op.toNat

theorem decodeFields_reserved {op : Byte} (h : ReservedOpcode op) (a : Byte) (b : Word) :
    decodeFields op a b = .error (.reservedOpcode op) := by
  have hop : op.toNat = 0 ∨ 14 ≤ op.toNat := h.imp_left fun h0 => by rw [h0]; rfl
  unfold decodeFields
  split
  case h_14 => rfl
  all_goals omega

theorem reservedOpcode_of_decodeFields {op a : Byte} {b : Word} {e : DecodeError} (h : decodeFields op a b = .error e) :
    ReservedOpcode op := by
  unfold decodeFields at h
  split at h
  case h_14 =>
    have hop : op.toNat = 0 ∨ 14 ≤ op.toNat := by
      simp only [imp_false] at *
      omega
    exact hop.imp_left fun h0 => BitVec.eq_of_toNat_eq h0
  all_goals cases h

/-! The acceptance of a command. -/

theorem accept_atStep (w : CommandWord) (s : State) : (s.accept w).AtStep 1 := by
  rw [State.AtStep, accept_lat]
  exact ⟨rfl, rfl⟩

/-- The word accepted is the word latched (30_encoding.md R91). -/
theorem accept_latchedWord (w : CommandWord) (s : State) : (s.accept w).latchedWord = w := by
  rw [State.latchedWord, accept_lat]
  exact ofFields_self w

/-- A reserved opcode has one micro-step, its result (30_encoding.md R104). -/
theorem runContext_reserved {s : State} {e : DecodeError} (h : s.AtStep 1) (hd : decode s.latchedWord = .error e) :
    s.runContext = .next (s.finish .errOpcode) := by
  have hf : s.fetch = .error e := hd
  simp only [State.runContext, canAccept_eq_false h, hf, Bool.false_eq_true, if_false]
  exact command_at_step (k := 0) (m := fun _ => .result .errOpcode) h rfl

end Sys2Proof.Machine

namespace Sys2Proof.Proofs

open Sys2Proof Sys2Proof.Machine

/-- Settles O1: an operand that the port word holds in another form, the callback's, comes back as it was. -/
theorem decodeOfEncodeIsTheInstruction : Obligations.DecodeOfEncodeIsTheInstruction := by
  intro i hwf
  rw [decode_encode]
  cases i with
  | setCallBack fn => exact congrArg (Except.ok ∘ Instr.setCallBack) (callbackOfWord_wordOfCallback fn hwf)
  | _ => rfl

/-- Settles O2. -/
theorem decodeReadsExactlyTheListedFields : Obligations.DecodeReadsExactlyTheListedFields := by
  intro w i h
  obtain ⟨hwf, ha, hb⟩ := decodeFields_operands h
  exact ⟨hwf, decodeFields_opcode h, ha, hb⟩

/-- Settles O3: each of `a` and `b` is the same in the two words, or is ignored. -/
theorem ignoredFieldsDoNotMatter : Obligations.IgnoredFieldsDoNotMatter := by
  intro w v hop ha hb
  have hdrop : decodeFields w.op w.a w.b = decodeFields w.op v.a w.b := by
    by_cases hlist : w.op.toNat ∈ [1, 2, 3, 4, 5, 6]
    · exact congrArg (decodeFields w.op · w.b) (ha hlist)
    · exact decodeFields_ignores_a hlist _ _ _
  have hdrop' : decodeFields w.op v.a w.b = decodeFields w.op v.a v.b := by
    by_cases hlist : w.op.toNat ∈ [3, 6, 7, 8, 9]
    · exact congrArg (decodeFields w.op v.a) (hb hlist)
    · exact decodeFields_ignores_b hlist _ _ _
  calc decode w = decodeFields w.op v.a v.b := hdrop.trans hdrop'
    _ = decode v := congrArg (decodeFields · v.a v.b) hop

/-- Settles O4: each of the thirteen texts is read, and its word decoded, by evaluation. -/
theorem textExamplesAssembleAndDecode : Obligations.TextExamplesAssembleAndDecode := by
  unfold Obligations.TextExamplesAssembleAndDecode
  decide

/-- Settles O13: an idle bank has no `Handler` to save. -/
theorem acceptanceLoadsTheLatches : Obligations.AcceptanceLoadsTheLatches := by
  intro s w rest hin hidle hcall
  have hload : s.lat.load w
      = { s.lat with op := w.extractLsb' 40 8, a := w.extractLsb' 32 8, b := w.extractLsb' 0 32, ustep := 1 } := by
    rw [Latches.load, ← hcall]
    rfl
  have hb : ((s.withInputs rest).accept w).bank = ⟨s.lat.load w, s.bank.saved, s.bank.res⟩ := by
    rw [accept_bank, withInputs_bank, Bank.accept, bank_cur, hcall]
  refine ⟨_, step_present hin (by simp [State.canAccept, hidle]), ?_, by rw [hb], by rw [hb],
    ⟨rfl, rfl, rfl, rfl, rfl, rfl⟩, ⟨rfl, rfl, rfl, rfl, rfl, rfl⟩, rfl, ⟨rfl, rfl⟩,
    ⟨rfl, rfl, bankOf_other_setBank _ (s.withInputs rest)⟩, rfl, rfl, rfl, rfl, rfl⟩
  rw [State.lat, hb]
  exact hload

/-- Settles O17: the latched word is the word accepted, so its one micro-step is the result. -/
theorem reservedOpcodesEndWithErrOpcode : Obligations.ReservedOpcodesEndWithErrOpcode := by
  intro w
  refine ⟨⟨fun ⟨e, he⟩ => reservedOpcode_of_decodeFields he, fun h => ⟨_, decodeFields_reserved h _ _⟩⟩,
    fun s hres hin hc => ?_⟩
  have hd : decode ((s.withInputs []).accept w).latchedWord = .error (.reservedOpcode w.op) := by
    rw [accept_latchedWord]
    exact decodeFields_reserved hres _ _
  exact ⟨_, _, step_present hin hc, runContext_reserved (accept_atStep w _) hd,
    ⟨rfl, rfl, rfl, rfl, rfl, rfl⟩, ⟨rfl, rfl, rfl, rfl, rfl, rfl⟩, rfl, ⟨rfl, rfl⟩, rfl, rfl, rfl, rfl,
    finish_onlyEnded .errOpcode _⟩

end Sys2Proof.Proofs
end

section
/-! SUPPORT. Which micro-steps the operations on an identifier and on a priority have (30_encoding.md R98, R101, R102), and what a
read-modify-write leaves of the registers (20_memory.md R62, R63). -/

namespace Sys2Proof.Machine

/-! The micro-steps by identifier, kind and priority. -/

theorem prioRejected_eq_true {cfg : Config} {p : Word} (hq : cfg.prioPolicy = .reject) (hp : 7 < p.toNat) :
    prioRejected cfg p = true := by
  simp [prioRejected, prioInRange, hq, hp]

theorem prioResult_eq (p : Word) : prioResult p = if p.toNat ≤ 7 then .ok else .prioRange := by
  simp only [prioResult, prioInRange, decide_eq_true_eq]

/-- An identifier out of range is answered by the result alone (30_encoding.md R101, R106). -/
theorem micros_irqOutOfRange {cfg : Config} {id : Byte} (h : cfg.nIrq.val ≤ id.toNat) {i : Instr} {p : Word}
    (hi : i = .enableIRQ id ∨ i = .disableIRQ id ∨ i = .setPriorityIRQ id p) :
    microsOf cfg i = [fun _ => .result .errId] := by
  obtain rfl | rfl | rfl := hi
  · simp only [microsOf, microsEnableIRQ, irqInRange_of_ge h]
  · simp only [microsOf, microsDisableIRQ, irqInRange_of_ge h]
  · simp only [microsOf, microsSetPriorityIRQ, irqInRange_of_ge h]

theorem micros_setPriorityIRQ_rejected {cfg : Config} {id : Byte} {p : Word} (h : id.toNat < cfg.nIrq.val)
    (hp : prioRejected cfg p = true) : microsOf cfg (.setPriorityIRQ id p) = [fun _ => .result .prioRange] := by
  simp only [microsOf, microsSetPriorityIRQ, irqInRange_of_lt h, hp, if_true]

theorem micros_setPriorityIRQ {cfg : Config} {id : Byte} {p : Word} {r : Fin 35} (h : id.toNat < cfg.nIrq.val)
    (hr : r.val = id.toNat / 4) (hp : prioRejected cfg p = false) :
    microsOf cfg (.setPriorityIRQ id p)
      = [fun _ => .read (.pri r), fun l => .write (.pri r) (insertField l.t (id.toNat % 4 * 8 + 5) (prioField p)),
         fun _ => .result (prioResult p)] := by
  have hreg : priorityReg ⟨id.toNat, by have := cfg.nIrq.isLt; omega⟩ = r := Fin.ext hr.symm
  simp only [microsOf, microsSetPriorityIRQ, irqInRange_of_lt h, hp, hreg, priorityOffset, Bool.false_eq_true, if_false]

/-- The seven kinds that have a priority field, by number, with its register and offset (30_encoding.md R98). -/
def exceptionFields : List (Nat × Selector × Nat) :=
  [(3, .syspri1, 5), (4, .syspri1, 13), (5, .syspri1, 21), (6, .syspri2, 29), (7, .syspri3, 5), (8, .syspri3, 21),
    (9, .syspri3, 29)]

/-- The decoder of kinds and the descriptor of R98 agree with the table. -/
theorem exceptionFields_descriptor {kind : Byte} {sel : Selector} {o : Nat} (h : (kind.toNat, sel, o) ∈ exceptionFields) :
    ∃ k, kindOf kind = some k ∧ priorityDescriptor k = some (sel, o) := by
  have htable : ∀ f ∈ exceptionFields, (kindOf (BitVec.ofNat 8 f.1)).bind priorityDescriptor = some f.2 := by decide
  have hbind := htable _ h
  rw [BitVec.ofNat_toNat, BitVec.setWidth_eq] at hbind
  exact Option.bind_eq_some_iff.mp hbind

theorem exists_exceptionField {n : Nat} (h : n ∈ [3, 4, 5, 6, 7, 8, 9]) : ∃ sel o, (n, sel, o) ∈ exceptionFields := by
  obtain ⟨⟨m, sel, o⟩, hmem, rfl⟩ : ∃ f ∈ exceptionFields, f.1 = n := List.mem_map.mp h
  exact ⟨sel, o, hmem⟩

theorem micros_setPriorityException_rejected {cfg : Config} {kind : Byte} {p : Word} {sel : Selector} {o : Nat}
    (h : (kind.toNat, sel, o) ∈ exceptionFields) (hp : prioRejected cfg p = true) :
    microsOf cfg (.setPriorityException kind p) = [fun _ => .result .prioRange] := by
  obtain ⟨k, hk, hd⟩ := exceptionFields_descriptor h
  simp only [microsOf, microsSetPriorityException, hk, hd, hp, if_true]

theorem micros_setPriorityException {cfg : Config} {kind : Byte} {p : Word} {sel : Selector} {o : Nat}
    (h : (kind.toNat, sel, o) ∈ exceptionFields) (hp : prioRejected cfg p = false) :
    microsOf cfg (.setPriorityException kind p)
      = [fun _ => .read sel, fun l => .write sel (insertField l.t o (prioField p)), fun _ => .result (prioResult p)] := by
  obtain ⟨k, hk, hd⟩ := exceptionFields_descriptor h
  simp only [microsOf, microsSetPriorityException, hk, hd, hp, Bool.false_eq_true, if_false]

/-! What a read-modify-write leaves. -/

/-- What a register reads depends on the storage only (20_memory.md R62). -/
theorem regValue_of_sameStorage {s t : State} (h : SameStorage s t) (sel : Selector) : t.regValue sel = s.regValue sel := by
  obtain ⟨⟨hien, hpri, hshc, h1, h2, h3⟩, ⟨hen, hint, hclk, hflag, hrel, hcur⟩, -, -, -, hcfg, -⟩ := h
  cases sel <;>
    simp only [State.regValue, State.ienWord, State.tctrlWord, hien, hpri, hshc, h1, h2, h3, hen, hint, hclk, hflag, hrel, hcur,
      hcfg]

/-- A finished read-modify-write of any register but TCTRL leaves the storage as its write does. -/
theorem rmwDone_finish_storage {sel : Selector} (hsel : sel ≠ .tctrl) (g : Word → Word) (c : ResultCode) (s : State) :
    SameStorage (s.regWrite sel (g (s.regValue sel))) ((s.rmwDone sel g).finish c) := by
  cases sel with
  | tctrl => exact absurd rfl hsel
  | _ =>
    simp [SameStorage, SameIrqController, SamePriorities, SameSystemRegisters, SameTimer, SameMasks, SameOutside,
      State.rmwDone, perform_write, State.regWrite]

/-- A system priority register (10_state.md R37 to R39). -/
def Selector.isSystemPriority : Selector → Bool
  | .syspri1 => true
  | .syspri2 => true
  | .syspri3 => true
  | _ => false

theorem exceptionFields_bounds {n : Nat} {sel : Selector} {o : Nat} (h : (n, sel, o) ∈ exceptionFields) :
    sel.isSystemPriority = true ∧ o + 3 ≤ 32 := by
  have hall : ∀ f ∈ exceptionFields, f.2.1.isSystemPriority = true ∧ f.2.2 + 3 ≤ 32 := by decide
  exact hall _ h

theorem regValue_regWrite_systemPriority {sel : Selector} (h : sel.isSystemPriority = true) (v : Word) (s : State) :
    (s.regWrite sel v).regValue sel = v ∧ ∀ other, other ≠ sel → (s.regWrite sel v).regValue other = s.regValue other := by
  constructor
  · cases sel with
    | syspri1 => rfl
    | syspri2 => rfl
    | syspri3 => rfl
    | _ => cases h
  · intro other hne
    have hsel : ∀ {a}, a.isSystemPriority = false → sel ≠ a := fun ha he => by rw [he, ha] at h; cases h
    exact regValue_regWrite_other s v hne.symm (fun r => ⟨fun hv => hsel rfl hv.1, fun hv => hsel rfl hv.1⟩)
      fun hv => hsel rfl hv.1

theorem systemPriority_regWrite_frame {sel : Selector} {v : Word} {s t : State} (h : sel.isSystemPriority = true)
    (ht : SameStorage (s.regWrite sel v) t) :
    SameTimer s t ∧ t.ien = s.ien ∧ SamePriorities s t ∧ t.cb = s.cb ∧ SameMasks s t ∧ SameOutside s t := by
  obtain ⟨⟨hien, hpri, -⟩, htimer, hrest⟩ := ht
  cases sel with
  | syspri1 => exact ⟨htimer, hien, hpri, hrest⟩
  | syspri2 => exact ⟨htimer, hien, hpri, hrest⟩
  | syspri3 => exact ⟨htimer, hien, hpri, hrest⟩
  | _ => cases h

/-! What PRI_LOW_BITS lets a priority word hold (10_state.md R33, R35). -/

theorem significantLaneBits_bit {j : Nat} (h : j < 32) : significantLaneBits.getLsbD j = decide (5 ≤ j % 8) := by
  have hall : ∀ i : Fin 32, significantLaneBits.getLsbD i = decide (5 ≤ i.val % 8) := by decide
  exact hall ⟨j, h⟩

/-- A word that RAZ_WI lets be has only zeros in the low bits of its lanes. -/
theorem and_significantLaneBits_eq_self_iff (v : Word) :
    v &&& significantLaneBits = v ↔ ∀ j, j < 32 → j % 8 < 5 → v.getLsbD j = false := by
  refine ⟨fun h j hj hlow => ?_, fun h => BitVec.eq_of_getLsbD_eq fun j hj => ?_⟩
  · rw [← h, BitVec.getLsbD_and, significantLaneBits_bit hj, decide_eq_false (by omega), Bool.and_false]
  · rw [BitVec.getLsbD_and, significantLaneBits_bit hj]
    by_cases hlow : j % 8 < 5
    · rw [h j hj hlow, Bool.false_and]
    · rw [decide_eq_true (by omega), Bool.and_true]

/-- The field of a lane is its three significant bits, so a word that PRI_LOW_BITS lets be stays one (10_state.md R33, R35). -/
theorem lowLaneBits_insertField {cfg : Config} {t : Word} (h : lowLaneBits cfg t = t) {k : Nat} (hk : k < 4) (p : Word) :
    lowLaneBits cfg (insertField t (k * 8 + 5) (prioField p)) = insertField t (k * 8 + 5) (prioField p) := by
  unfold lowLaneBits at *
  cases hmode : cfg.priLowBits with
  | stored => rfl
  | razWi =>
    simp only [hmode, and_significantLaneBits_eq_self_iff] at h ⊢
    intro j hj hlow
    have hout : ¬ (k * 8 + 5 ≤ j ∧ j < k * 8 + 5 + 3) := by omega
    rw [insertField_bit t p (by omega), if_neg hout]
    exact h j hj hlow

theorem regWrite_pri_self (r : Fin 35) (v : Word) (s : State) :
    (s.regWrite (.pri r) v).pri.get r = lowLaneBits s.cfg v := by
  simp [regWrite_pri, Vector.get_eq_getElem]

end Sys2Proof.Machine

namespace Sys2Proof.Proofs

open Sys2Proof Sys2Proof.Machine

/-- Settles O20: the word written is one that PRI_LOW_BITS lets be, so the register holds all of it. -/
theorem setPriorityIrqWritesExactlyItsField : Obligations.SetPriorityIrqWritesExactlyItsField := by
  intro s id p hat hwidths hid hp
  obtain ⟨-, -, hlanes⟩ := hwidths
  obtain ⟨r, hr⟩ : ∃ r : Fin 35, r.val = id.toNat / 4 := ⟨⟨id.toNat / 4, by have := s.cfg.nIrq.isLt; omega⟩, rfl⟩
  have hlane : id.toNat % 4 < 4 := Nat.mod_lt _ (by decide)
  have hm := micros_setPriorityIRQ hid hr (prioRejected_eq_false hp)
  obtain ⟨h1, h2, h3, hend, hhist⟩ := run_rmw (g := (insertField · (id.toNat % 4 * 8 + 5) (prioField p))) hm hat
  have hstore := rmwDone_finish_storage (sel := .pri r) (by simp) (insertField · (id.toNat % 4 * 8 + 5) (prioField p))
    (prioResult p) s
  have hread : s.regValue (.pri r) = s.pri.get r := hlanes r
  rw [hread] at hhist hstore
  have hself := regWrite_pri_self r (insertField (s.pri.get r) (id.toNat % 4 * 8 + 5) (prioField p)) s
  rw [lowLaneBits_insertField (hlanes r) hlane] at hself
  obtain ⟨hsys, htimer, hcb, hmasks, hout⟩ := irqTarget_regWrite_frame (.setPriorityIRQ id p r hr) hstore
  obtain ⟨⟨hien, hpri, -⟩, -⟩ := hstore
  rw [← prioResult_eq]
  refine ⟨_, _, _, h1, h2, h3, fun q j => ?_, hien, hsys, htimer, hcb, hmasks, hout, hend, r, hr, ?_⟩
  · rw [hpri]
    by_cases hq : q = r
    · rw [hq, hself, insertField_bit _ _ (by omega)]
      simp only [hr, true_and]
    · have hne : q.val ≠ r.val := fun he => hq (Fin.ext he)
      rw [regWrite_pri_other hne, if_neg fun hfield => hne (hfield.1.trans hr.symm)]
  · rw [hpri, hself, hhist]

/-- Settles O29: the write leaves the six other fields and every other register. -/
theorem setPriorityExceptionWritesExactlyItsField : Obligations.SetPriorityExceptionWritesExactlyItsField := by
  intro s kind p sel o hat hmem hp
  obtain ⟨hsys, ho⟩ := exceptionFields_bounds hmem
  have hne : sel ≠ .tctrl := by rintro rfl; cases hsys
  have hm := micros_setPriorityException (cfg := s.cfg) hmem (prioRejected_eq_false hp)
  obtain ⟨h1, h2, h3, hend, hhist⟩ := run_rmw (g := (insertField · o (prioField p))) hm hat
  have hstore := rmwDone_finish_storage hne (insertField · o (prioField p)) (prioResult p) s
  obtain ⟨hself, hother⟩ := regValue_regWrite_systemPriority hsys (insertField (s.regValue sel) o (prioField p)) s
  have hval := regValue_of_sameStorage hstore
  obtain ⟨htimer, hien, hpri, hcb, hmasks, hout⟩ := systemPriority_regWrite_frame hsys hstore
  rw [← prioResult_eq]
  refine ⟨_, _, _, h1, h2, h3, fun j => ?_, fun other ho => ?_, htimer, hien, hpri, hcb, hmasks, hout, hend, ?_⟩
  · rw [hval, hself, insertField_bit _ _ ho]
  · rw [hval, hother other ho]
  · rw [hval, hself, hhist]

/-- Settles O21. -/
theorem outOfRangeIdentifiersAreRejected : Obligations.OutOfRangeIdentifiersAreRejected := by
  intro s id p hat hid
  exact ⟨⟨_, run_result (micros_irqOutOfRange (p := p) hid (.inl rfl)) hat⟩,
    ⟨_, run_result (micros_irqOutOfRange (p := p) hid (.inr (.inl rfl))) hat⟩,
    ⟨_, run_result (micros_irqOutOfRange hid (.inr (.inr rfl))) hat⟩⟩

/-- Settles O22: the policy is looked at where the identifier or the kind has a field. -/
theorem rejectPolicyMakesNoAccess : Obligations.RejectPolicyMakesNoAccess := by
  intro s a p hat hpolicy hp
  have hrej := prioRejected_eq_true hpolicy hp
  refine ⟨fun hid => ⟨_, run_result (micros_setPriorityIRQ_rejected hid hrej) hat⟩, fun hkind => ?_⟩
  obtain ⟨sel, o, hmem⟩ := exists_exceptionField hkind
  exact ⟨_, run_result (micros_setPriorityException_rejected hmem hrej) hat⟩

/-- Settles O5. -/
theorem identifierEncoder : Obligations.IdentifierEncoder :=
  fun _ _ => ⟨irqInRange_of_ge, fun h => ⟨_, irqInRange_of_lt h, rfl, rfl, rfl, rfl, rfl, rfl, rfl, rfl⟩⟩

end Sys2Proof.Proofs
end

section
/-! SUPPORT. The read-modify-writes of the IRQ operations (40_irq_ops.md R120, R122, R124): their micro-steps, the bits of IEN
that each leaves, and that a second one finds nothing to change (R126). -/

namespace Sys2Proof.Machine

/-! The micro-steps of an identifier in range. -/

theorem micros_enableIRQ {cfg : Config} {id : Byte} {r : Fin 5} (h : id.toNat < cfg.nIrq.val) (hr : r.val = id.toNat / 32) :
    microsOf cfg (.enableIRQ id)
      = [fun _ => .read (.en r), fun l => .write (.en r) (l.t ||| 1#32 <<< (id.toNat % 32)), fun _ => .result .ok] := by
  have hreg : enableReg ⟨id.toNat, by have := cfg.nIrq.isLt; omega⟩ = r := Fin.ext hr.symm
  simp only [microsOf, microsEnableIRQ, irqInRange_of_lt h, hreg, setBits, enableMask, enableBit]

theorem micros_disableIRQ {cfg : Config} {id : Byte} {r : Fin 5} (h : id.toNat < cfg.nIrq.val) (hr : r.val = id.toNat / 32) :
    microsOf cfg (.disableIRQ id)
      = [fun _ => .read (.dis r), fun l => .write (.dis r) (l.t ||| 1#32 <<< (id.toNat % 32)), fun _ => .result .ok] := by
  have hreg : enableReg ⟨id.toNat, by have := cfg.nIrq.isLt; omega⟩ = r := Fin.ext hr.symm
  simp only [microsOf, microsDisableIRQ, irqInRange_of_lt h, hreg, setBits, enableMask, enableBit]

/-- The enable or disable register of an identifier in range (30_encoding.md R96). -/
theorem exists_enableReg {cfg : Config} {id : Byte} (h : id.toNat < cfg.nIrq.val) : ∃ r : Fin 5, r.val = id.toNat / 32 :=
  ⟨⟨id.toNat / 32, by have := cfg.nIrq.isLt; omega⟩, rfl⟩

/-- The priority register of an identifier in range (30_encoding.md R97). -/
theorem exists_priorityReg {cfg : Config} {id : Byte} (h : id.toNat < cfg.nIrq.val) : ∃ r : Fin 35, r.val = id.toNat / 4 :=
  ⟨⟨id.toNat / 4, by have := cfg.nIrq.isLt; omega⟩, rfl⟩

/-! The bits of IEN. -/

/-- A word with the bit of line `n` set, at its place in IEN: the word, and the bit of `n` (10_state.md R31). -/
theorem ienPlace_setBit {r : Fin 5} {n : Nat} (hr : r.val = n / 32) (v : Word) (j : Nat) :
    (ienPlace r (v ||| 1#32 <<< (n % 32))).getLsbD j = ((ienPlace r v).getLsbD j || decide (j = n)) := by
  have hone : (1#32 <<< (n % 32)).getLsbD (j - 32 * r.val) = decide (j - 32 * r.val = n % 32) :=
    bitWord_bit ⟨n % 32, Nat.mod_lt n (by decide)⟩ _
  rw [ienPlace_bit, ienPlace_bit, BitVec.getLsbD_or, hone, Bool.and_or_distrib_left, ← Bool.decide_and]
  exact congrArg _ (decide_eq_decide.mpr (by omega))

/-- A word of IEN, at its place (10_state.md R31). -/
theorem ienPlace_ienWord (s : State) (r : Fin 5) (j : Nat) :
    (ienPlace r (s.ienWord r)).getLsbD j = (decide (j / 32 = r.val) && s.ien.getLsbD j) := by
  rw [ienPlace_bit, ienWord_bit]
  by_cases hj : j / 32 = r.val
  · have hat : 32 * r.val + (j - 32 * r.val) = j := by omega
    simp [hat, hj, show 32 * r.val ≤ j ∧ j < 32 * r.val + 32 by omega, show j - 32 * r.val < 32 by omega]
  · simp [hj, show ¬ (32 * r.val ≤ j ∧ j < 32 * r.val + 32) by omega]

/-- The lines whose bits the read-modify-write of DIS clears: a disable register that reads the enable state is written back
with the bits of all its enabled lines (40_irq_ops.md R123, 70_reset_and_hazards.md R251). -/
def disableClears (mode : DisReadMode) (n j : Nat) : Bool :=
  match mode with
  | .zero => decide (j = n)
  | .enableState => decide (j / 32 = n / 32)

theorem disableClears_self (mode : DisReadMode) (n : Nat) : disableClears mode n n = true := by
  cases mode <;> simp [disableClears]

theorem disableClears_otherWord (mode : DisReadMode) {n j : Nat} (h : j / 32 ≠ n / 32) : disableClears mode n j = false := by
  have hne : j ≠ n := fun he => h (he ▸ rfl)
  cases mode <;> simp [disableClears, h, hne]

/-- `EnableIRQ` sets the bit of its line (40_irq_ops.md R120): the other bits of the word are written back as they are. -/
theorem rmw_en_bit (s : State) {r : Fin 5} {n : Nat} (hr : r.val = n / 32) (j : Nat) :
    (s.regWrite (.en r) (s.regValue (.en r) ||| 1#32 <<< (n % 32))).ien.getLsbD j
      = (s.ien.getLsbD j || decide (j = n)) := by
  have hread : s.regValue (.en r) = s.ienWord r := rfl
  rw [regWrite_en_bit, ienPlace_setBit hr, hread, ienPlace_ienWord]
  cases s.ien.getLsbD j <;> simp

/-- `DisableIRQ` clears what it writes as 1: the bit of its line, and the bits it has read (40_irq_ops.md R122, R123). -/
theorem rmw_dis_bit (s : State) {r : Fin 5} {n : Nat} (hr : r.val = n / 32) (j : Nat) :
    (s.regWrite (.dis r) (s.regValue (.dis r) ||| 1#32 <<< (n % 32))).ien.getLsbD j
      = (s.ien.getLsbD j && !disableClears s.cfg.disReadMode n j) := by
  rw [regWrite_dis_bit, ienPlace_setBit hr]
  cases hmode : s.cfg.disReadMode with
  | zero =>
    have hread : s.regValue (.dis r) = 0 := by simp only [State.regValue, hmode]
    simp [hread, ienPlace_bit, disableClears]
  | enableState =>
    have hread : s.regValue (.dis r) = s.ienWord r := by simp only [State.regValue, hmode]
    rw [hread, ienPlace_ienWord, disableClears, hr]
    cases s.ien.getLsbD j
    · rfl
    · by_cases hj : j = n <;> simp [hj]

/-! A second read-modify-write of the same register. -/

/-- Where IEN and the priority registers are as a read-modify-write of `sel` left them, a second one leaves them so. -/
def RmwIdempotent (cfg : Config) (sel : Selector) (g : Word → Word) : Prop :=
  ∀ s u : State, s.cfg = cfg → u.cfg = cfg → u.ien = (s.regWrite sel (g (s.regValue sel))).ien →
    u.pri = (s.regWrite sel (g (s.regValue sel))).pri →
    (u.regWrite sel (g (u.regValue sel))).ien = u.ien ∧ (u.regWrite sel (g (u.regValue sel))).pri = u.pri

theorem rmwIdempotent_en (cfg : Config) {r : Fin 5} {n : Nat} (hr : r.val = n / 32) :
    RmwIdempotent cfg (.en r) (· ||| 1#32 <<< (n % 32)) := by
  intro s u _ _ hien _
  refine ⟨BitVec.eq_of_getLsbD_eq fun j _ => ?_, rfl⟩
  rw [rmw_en_bit u hr, hien, rmw_en_bit s hr, Bool.or_assoc, Bool.or_self]

theorem rmwIdempotent_dis (cfg : Config) {r : Fin 5} {n : Nat} (hr : r.val = n / 32) :
    RmwIdempotent cfg (.dis r) (· ||| 1#32 <<< (n % 32)) := by
  intro s u hs hu hien _
  refine ⟨BitVec.eq_of_getLsbD_eq fun j _ => ?_, rfl⟩
  rw [rmw_dis_bit u hr, hien, rmw_dis_bit s hr, hs, hu, Bool.and_assoc, Bool.and_self]

theorem insertField_idem (t p : Word) {o : Nat} (ho : o + 3 ≤ 32) :
    insertField (insertField t o (prioField p)) o (prioField p) = insertField t o (prioField p) := by
  refine BitVec.eq_of_getLsbD_eq fun j _ => ?_
  simp only [insertField_bit _ p ho]
  split <;> rfl

/-- The word that is read has the bits PRI_LOW_BITS lets it have, so the word written back is stored and read again in full
(10_state.md R35). -/
theorem rmwIdempotent_pri (cfg : Config) (r : Fin 35) {k : Nat} (hk : k < 4) (p : Word) :
    RmwIdempotent cfg (.pri r) (insertField · (k * 8 + 5) (prioField p)) := by
  intro s u hs hu _ hpri
  beta_reduce at hpri ⊢
  generalize hv : insertField (s.regValue (.pri r)) (k * 8 + 5) (prioField p) = v at hpri
  have hlow : lowLaneBits cfg v = v := hv ▸ lowLaneBits_insertField (hs ▸ lowLaneBits_idem s.cfg _) hk p
  have hself : u.pri.get r = v := by rw [hpri, regWrite_pri_self, hs, hlow]
  have hagain : insertField (u.regValue (.pri r)) (k * 8 + 5) (prioField p) = v := by
    rw [State.regValue, hself, hu, hlow, ← hv, insertField_idem _ _ (by omega)]
  refine ⟨rfl, ?_⟩
  rw [hagain, regWrite_pri, hu, hlow, ← hself]
  exact Vector.set_getElem_self r.isLt

/-- The three IRQ operations, in range and not rejected, are read-modify-writes of their register, and idempotent ones. -/
theorem irq_rmw {cfg : Config} {i : Instr} {id : Byte} {p : Word} (hid : id.toNat < cfg.nIrq.val)
    (hp : ¬ (cfg.prioPolicy = .reject ∧ 7 < p.toNat))
    (hi : i = .enableIRQ id ∨ i = .disableIRQ id ∨ i = .setPriorityIRQ id p) :
    ∃ sel g c, IrqTarget i sel ∧ RmwIdempotent cfg sel g
      ∧ microsOf cfg i = [fun _ => .read sel, fun l => .write sel (g l.t), fun _ => .result c] := by
  obtain ⟨r, hr⟩ := exists_enableReg hid
  obtain ⟨q, hq⟩ := exists_priorityReg hid
  obtain rfl | rfl | rfl := hi
  · exact ⟨_, _, _, .enableIRQ id r hr, rmwIdempotent_en cfg hr, micros_enableIRQ hid hr⟩
  · exact ⟨_, _, _, .disableIRQ id r hr, rmwIdempotent_dis cfg hr, micros_disableIRQ hid hr⟩
  · exact ⟨_, _, _, .setPriorityIRQ id p q hq, rmwIdempotent_pri cfg q (Nat.mod_lt _ (by decide)) p,
      micros_setPriorityIRQ hid hq (prioRejected_eq_false hp)⟩

/-- The register of an IRQ operation is not TCTRL, whose read has a side effect (20_memory.md R68). -/
theorem irqTarget_ne_tctrl {i : Instr} {sel : Selector} (h : IrqTarget i sel) : sel ≠ .tctrl := by
  cases h <;> simp

/-- Where the three micro-steps of a read-modify-write command lead: to the storage its write leaves. -/
theorem run_rmw_storage {i : Instr} {s s1 s2 t : State} {sel : Selector} {g : Word → Word} {c : ResultCode}
    (hsel : sel ≠ .tctrl)
    (hm : microsOf s.cfg i = [fun _ => .read sel, fun l => .write sel (g l.t), fun _ => .result c]) (hat : s.AtStep 1)
    (h1 : exec i s = .next s1) (h2 : exec i s1 = .next s2) (h3 : exec i s2 = .next t) :
    SameStorage (s.regWrite sel (g (s.regValue sel))) t := by
  obtain ⟨hread, hwrite, hresult, -⟩ := run_rmw hm hat
  cases hread.symm.trans h1
  cases hwrite.symm.trans h2
  cases hresult.symm.trans h3
  exact rmwDone_finish_storage hsel g c s

/-- What holds of the storage before a change of nothing holds after it. -/
theorem sameStorage_carries {t u v : State} (h : SameStorage u v) :
    (SameIrqController t u → SameIrqController t v) ∧ (SameTimer t u → SameTimer t v) ∧ (u.cb = t.cb → v.cb = t.cb)
      ∧ (SameMasks t u → SameMasks t v) := by
  obtain ⟨⟨hien, hpri, hshc, h1, h2, h3⟩, ⟨hen, hint, hclk, hflag, hrel, hcur⟩, hcb, ⟨him, hfm⟩, -⟩ := h
  simp only [SameIrqController, SamePriorities, SameSystemRegisters, SameTimer, SameMasks, hien, hpri, hshc, h1, h2, h3, hen,
    hint, hclk, hflag, hrel, hcur, hcb, him, hfm]
  exact ⟨id, id, id, id⟩

end Sys2Proof.Machine

namespace Sys2Proof.Proofs

open Sys2Proof Sys2Proof.Machine

/-- Settles O18: the word written back is the word read with one bit more, and EN sets what is written as 1. -/
theorem enableIrqSetsExactlyItsBit : Obligations.EnableIrqSetsExactlyItsBit := by
  intro s id hat hid
  obtain ⟨r, hr⟩ := exists_enableReg hid
  obtain ⟨h1, h2, h3, hend, hhist⟩ := run_rmw (g := (· ||| 1#32 <<< (id.toNat % 32))) (micros_enableIRQ hid hr) hat
  have hstore := rmwDone_finish_storage (sel := .en r) (by simp) (· ||| 1#32 <<< (id.toNat % 32)) .ok s
  obtain ⟨hsys, htimer, hcb, hmasks, hout⟩ := irqTarget_regWrite_frame (.enableIRQ id r hr) hstore
  obtain ⟨⟨hien, hpri, -⟩, -⟩ := hstore
  exact ⟨_, _, _, h1, h2, h3, fun j => by rw [hien, rmw_en_bit s hr], hpri, hsys, htimer, hcb, hmasks, hout, hend,
    r, hr, hhist⟩

/-- Settles O19: the five clauses on IEN are about the bits that `disableClears` names. -/
theorem disableIrqClearsItsBit : Obligations.DisableIrqClearsItsBit := by
  intro s id hat hid
  obtain ⟨r, hr⟩ := exists_enableReg hid
  obtain ⟨h1, h2, h3, hend, hhist⟩ := run_rmw (g := (· ||| 1#32 <<< (id.toNat % 32))) (micros_disableIRQ hid hr) hat
  have hstore := rmwDone_finish_storage (sel := .dis r) (by simp) (· ||| 1#32 <<< (id.toNat % 32)) .ok s
  obtain ⟨hsys, htimer, hcb, hmasks, hout⟩ := irqTarget_regWrite_frame (.disableIRQ id r hr) hstore
  obtain ⟨⟨hien, hpri, -⟩, -⟩ := hstore
  have hbit := rmw_dis_bit s hr
  rw [← hien] at hbit
  refine ⟨_, _, _, h1, h2, h3, ?_, fun j hj => ?_, fun j hj => ?_, fun hmode j => ?_, fun hmode j => ?_, hpri, hsys, htimer,
    hcb, hmasks, hout, hend, r, hr, hhist⟩
  · rw [hbit, disableClears_self, Bool.not_true, Bool.and_false]
  · rw [hbit, disableClears_otherWord _ hj, Bool.not_false, Bool.and_true]
  · rw [hbit, Bool.and_eq_true] at hj
    exact hj.1
  · rw [hbit, hmode, disableClears]
  · rw [hbit, hmode, disableClears]

/-- Settles O23: the second run changes nothing of the storage. -/
theorem irqOperationsAreIdempotent : Obligations.IrqOperationsAreIdempotent := by
  intro id p i s s1 s2 t u u1 u2 v hi hid hp hat h1 h2 h3 huat hucfg huien hupri k1 k2 k3
  obtain ⟨sel, g, c, htarget, hidem, hm⟩ := irq_rmw hid hp hi
  have hsel := irqTarget_ne_tctrl htarget
  obtain ⟨⟨hien, hpri, -⟩, -⟩ := run_rmw_storage hsel hm hat h1 h2 h3
  have hv := run_rmw_storage hsel (hucfg ▸ hm) huat k1 k2 k3
  obtain ⟨hien2, hpri2⟩ := hidem s u rfl hucfg (huien.trans hien) (hupri.trans hpri)
  obtain ⟨hsys, hrest⟩ := irqTarget_regWrite_frame htarget hv
  obtain ⟨⟨hvien, hvpri, -⟩, -⟩ := hv
  have hsame : SameStorage u v := ⟨⟨hvien.trans hien2, hvpri.trans hpri2, hsys⟩, hrest⟩
  obtain ⟨hirq, htimer, hcb, hmasks⟩ := sameStorage_carries (t := t) hsame
  exact ⟨hsame.1.1.trans huien, hsame.1.2.1.trans hupri, fun h => hirq ⟨huien, hupri, h⟩, htimer, hcb, hmasks,
    fun sel h => (regValue_of_sameStorage hsame sel).trans h⟩

end Sys2Proof.Proofs
end

section
/-! SUPPORT. The exception kinds by number (30_encoding.md R94, R98, R99), the micro-steps their operations have, and the runs of
those that drive a mask, raise SVC_REQ or rewrite SHC (41_exception_ops.md). -/

namespace Sys2Proof.Machine

/-! The kinds and their micro-steps. -/

/-- The number of a kind (30_encoding.md R94). -/
def Kind.number : Kind → Nat
  | .reset => 0
  | .nmi => 1
  | .hardFault => 2
  | .memFault => 3
  | .busFault => 4
  | .usageFault => 5
  | .svc => 6
  | .debugMonitor => 7
  | .pendSv => 8
  | .sysTick => 9
  | .allInterrupts => 10

theorem kindOf_eq_some_iff {kind : Byte} {k : Kind} : kindOf kind = some k ↔ kind.toNat = k.number := by
  constructor
  · intro h
    unfold kindOf at h
    split at h <;> cases h <;> assumption
  · intro h
    cases k <;> simp only [kindOf, h, Kind.number]

/-- A number of 11 or more is no kind (30_encoding.md R105). -/
theorem kindOf_reserved {kind : Byte} (h : 11 ≤ kind.toNat) : kindOf kind = none := by
  rw [Option.eq_none_iff_forall_ne_some]
  intro k hk
  rw [kindOf_eq_some_iff.mp hk] at h
  cases k <;> simp [Kind.number] at h

/-- A kind out of range is answered by the result alone (41_exception_ops.md R143). -/
theorem micros_kindReserved {cfg : Config} {kind : Byte} (h : 11 ≤ kind.toNat) {i : Instr} {p : Word}
    (hi : i = .enableException kind ∨ i = .disableException kind ∨ i = .setPriorityException kind p) :
    microsOf cfg i = [fun _ => .result .errId] := by
  obtain rfl | rfl | rfl := hi
  · simp only [microsOf, microsEnableException, kindOf_reserved h]
  · simp only [microsOf, microsDisableException, kindOf_reserved h]
  · simp only [microsOf, microsSetPriorityException, kindOf_reserved h]

/-- The kinds that have neither an enable nor a disable (30_encoding.md R99). -/
theorem exists_kind_without_control {kind : Byte} (h : kind.toNat ∈ [0, 1, 7, 8, 9]) (cfg : Config) :
    ∃ k, kindOf kind = some k ∧ enableDescriptor cfg k = .nothing := by
  simp only [List.mem_cons, List.not_mem_nil, or_false] at h
  obtain h | h | h | h | h := h
  · exact ⟨.reset, kindOf_eq_some_iff.mpr h, rfl⟩
  · exact ⟨.nmi, kindOf_eq_some_iff.mpr h, rfl⟩
  · exact ⟨.debugMonitor, kindOf_eq_some_iff.mpr h, rfl⟩
  · exact ⟨.pendSv, kindOf_eq_some_iff.mpr h, rfl⟩
  · exact ⟨.sysTick, kindOf_eq_some_iff.mpr h, rfl⟩

/-- The kinds that have no priority field (41_exception_ops.md R157). -/
theorem exists_kind_without_priority {kind : Byte} (h : kind.toNat ∈ [0, 1, 2, 10]) :
    ∃ k, kindOf kind = some k ∧ priorityDescriptor k = none := by
  simp only [List.mem_cons, List.not_mem_nil, or_false] at h
  obtain h | h | h | h := h
  · exact ⟨.reset, kindOf_eq_some_iff.mpr h, rfl⟩
  · exact ⟨.nmi, kindOf_eq_some_iff.mpr h, rfl⟩
  · exact ⟨.hardFault, kindOf_eq_some_iff.mpr h, rfl⟩
  · exact ⟨.allInterrupts, kindOf_eq_some_iff.mpr h, rfl⟩

theorem micros_enableException_without_control {cfg : Config} {kind : Byte} (h : kind.toNat ∈ [0, 1, 7, 8, 9]) :
    microsOf cfg (.enableException kind) = [fun _ => .result .nopUnsupported] := by
  obtain ⟨k, hk, hd⟩ := exists_kind_without_control h cfg
  simp only [microsOf, microsEnableException, hk, hd]

/-- SVC, which has an enable, has no disable either (41_exception_ops.md R150). -/
theorem micros_disableException_without_control {cfg : Config} {kind : Byte} (h : kind.toNat ∈ [0, 1, 6, 7, 8, 9]) :
    microsOf cfg (.disableException kind) = [fun _ => .result .nopUnsupported] := by
  by_cases hsvc : kind.toNat = 6
  · have hk : kindOf kind = some .svc := kindOf_eq_some_iff.mpr hsvc
    simp only [microsOf, microsDisableException, hk, enableDescriptor]
  · obtain ⟨k, hk, hd⟩ := exists_kind_without_control (kind := kind) (by simpa [hsvc] using h) cfg
    simp only [microsOf, microsDisableException, hk, hd]

theorem micros_setPriorityException_without_priority {cfg : Config} {kind : Byte} {p : Word}
    (h : kind.toNat ∈ [0, 1, 2, 10]) :
    microsOf cfg (.setPriorityException kind p) = [fun _ => .result .nopUnsupported] := by
  obtain ⟨k, hk, hd⟩ := exists_kind_without_priority h
  simp only [microsOf, microsSetPriorityException, hk, hd]

/-- The three fault kinds that have an enable bit in SHC, and its position (41_exception_ops.md R146 to R148). -/
def FaultBit (cfg : Config) (kind : Byte) (bit : Fin 32) : Prop :=
  (kind = 3 ∧ bit = cfg.shcMemBit) ∨ (kind = 4 ∧ bit = cfg.shcBusBit) ∨ (kind = 5 ∧ bit = cfg.shcUsgBit)

theorem faultBit_descriptor {cfg : Config} {kind : Byte} {bit : Fin 32} (h : FaultBit cfg kind bit) :
    ∃ k, kindOf kind = some k ∧ enableDescriptor cfg k = .shcBit bit := by
  obtain ⟨rfl, rfl⟩ | ⟨rfl, rfl⟩ | ⟨rfl, rfl⟩ := h
  · exact ⟨.memFault, rfl, rfl⟩
  · exact ⟨.busFault, rfl, rfl⟩
  · exact ⟨.usageFault, rfl, rfl⟩

theorem micros_enableException_fault {cfg : Config} {kind : Byte} {bit : Fin 32} (h : FaultBit cfg kind bit) :
    microsOf cfg (.enableException kind)
      = [fun _ => .read .shc, fun l => .write .shc (setBits l.t (bitWord bit)), fun _ => .result .ok] := by
  obtain ⟨k, hk, hd⟩ := faultBit_descriptor h
  simp only [microsOf, microsEnableException, hk, hd]

theorem micros_disableException_fault {cfg : Config} {kind : Byte} {bit : Fin 32} (h : FaultBit cfg kind bit) :
    microsOf cfg (.disableException kind)
      = [fun _ => .read .shc, fun l => .write .shc (clearBits l.t (bitWord bit)), fun _ => .result .ok] := by
  obtain ⟨k, hk, hd⟩ := faultBit_descriptor h
  simp only [microsOf, microsDisableException, hk, hd]

/-! The bits of a word with one bit set or cleared (20_memory.md R66). -/

theorem setBits_bitWord_bit (t : Word) (bit : Fin 32) (j : Nat) :
    (setBits t (bitWord bit)).getLsbD j = (t.getLsbD j || decide (j = bit.val)) := by
  rw [setBits, BitVec.getLsbD_or, bitWord_bit]

theorem clearBits_bitWord_bit (t : Word) (bit : Fin 32) (j : Nat) :
    (clearBits t (bitWord bit)).getLsbD j = (t.getLsbD j && !decide (j = bit.val)) := by
  rw [clearBits, BitVec.getLsbD_and, BitVec.getLsbD_not, bitWord_bit]
  by_cases hj : j < 32
  · rw [decide_eq_true hj, Bool.true_and]
  · rw [BitVec.getLsbD_of_ge t j (Nat.not_lt.mp hj), Bool.false_and, Bool.false_and]

/-! The runs. -/

/-- A read-modify-write of SHC: SHC holds the new word, the accesses are the two of SHC, and nothing else is changed but by the
end of the command. -/
theorem run_rmw_shc {i : Instr} {s : State} {g : Word → Word}
    (hm : microsOf s.cfg i = [fun _ => .read .shc, fun l => .write .shc (g l.t), fun _ => .result .ok]) (hat : s.AtStep 1) :
    ∃ s1 s2 t, exec i s = .next s1 ∧ exec i s1 = .next s2 ∧ exec i s2 = .next t ∧ t.shc = g s.shc
      ∧ t.ien = s.ien ∧ SamePriorities s t ∧ t.syspri1 = s.syspri1 ∧ t.syspri2 = s.syspri2 ∧ t.syspri3 = s.syspri3
      ∧ SameTimer s t ∧ t.cb = s.cb ∧ SameMasks s t ∧ SameOutside s t ∧ CommandEnded s .ok t
      ∧ t.history = endEvents s .ok ++ .write s.ctx .shc t.shc :: .read s.ctx .shc s.shc :: s.history := by
  obtain ⟨h1, h2, h3, hend, hhist⟩ := run_rmw hm hat
  have hstore := rmwDone_finish_storage (sel := .shc) (by simp) g .ok s
  obtain ⟨⟨hien, hpri, hshc, hp1, hp2, hp3⟩, htimer, hcb, hmasks, hout⟩ := hstore
  exact ⟨_, _, _, h1, h2, h3, hshc, hien, hpri, hp1, hp2, hp3, htimer, hcb, hmasks, hout, hend, by rw [hshc]; exact hhist⟩

/-- After a micro-step that is no result, the command in progress is still the same one. -/
theorem inProgress_perform {s : State} {m : Micro} {k : Nat} (hm : ∀ c, m ≠ .result c) (hk : (s.perform m).AtStep k) :
    InProgress s (s.perform m) k := by
  obtain ⟨⟨hop, -, -, hsaved, -, hctx, hactive⟩, -⟩ := perform_goes_on hm
  exact ⟨hk, perform_cfg m s, hctx, hactive, perform_other m s, hsaved, hop⟩

theorem advance_atStep {s : State} {k : Nat} (h : s.AtStep k) : s.advance.AtStep (k + 1) := by
  obtain ⟨hstep, hcall⟩ := h
  rw [State.AtStep, advance_lat]
  exact ⟨congrArg (· + 1) hstep, hcall⟩

/-- A command of one action and a result: the result changes no storage. -/
theorem run_action_ended {i : Instr} {s : State} {m : Micro} {c : ResultCode}
    (hm : microsOf s.cfg i = [fun _ => m, fun _ => .result c]) (hat : s.AtStep 1) (hgo : ∀ c, m ≠ .result c)
    (hstep : (s.perform m).AtStep 2) :
    ∃ t, exec i s = .next (s.perform m) ∧ exec i (s.perform m) = .next t ∧ SameStorage (s.perform m) t
      ∧ CommandEnded s c t ∧ t.history = endEvents s c ++ (s.perform m).history := by
  obtain ⟨h1, h2⟩ := run_action hm hat (perform_cfg m s) hstep
  obtain ⟨hirq, htimer, hcb, hmasks, hout, -⟩ := finish_onlyEnded c (s.perform m)
  exact ⟨_, h1, h2, ⟨hirq, htimer, hcb, hmasks, hout⟩, inProgress_finish (inProgress_perform hgo hstep) c⟩

/-- A command that drives FMASK, and nothing else (10_state.md R50). -/
theorem run_setFMask {i : Instr} {s : State} {b : Bool}
    (hm : microsOf s.cfg i = [fun _ => .setFMask b, fun _ => .result .ok]) (hat : s.AtStep 1) :
    ∃ s1 t, exec i s = .next s1 ∧ exec i s1 = .next t
      ∧ t.fmask = b ∧ t.imask = s.imask ∧ SameIrqController s t ∧ SameTimer s t ∧ t.cb = s.cb ∧ SameOutside s t
      ∧ CommandEnded s .ok t ∧ t.history = endEvents s .ok ++ .setFMask s.ctx b :: s.history := by
  obtain ⟨t, h1, h2, ⟨hirq, htimer, hcb, ⟨himask, hfmask⟩, hout⟩, hend, hhist⟩ :=
    run_action_ended hm hat nofun (advance_atStep (s := { s with fmask := b }) hat)
  exact ⟨_, t, h1, h2, hfmask, himask, hirq, htimer, hcb, hout, hend, hhist⟩

/-- A command that drives IMASK, and nothing else (10_state.md R49). -/
theorem run_setIMask {i : Instr} {s : State} {b : Bool}
    (hm : microsOf s.cfg i = [fun _ => .setIMask b, fun _ => .result .ok]) (hat : s.AtStep 1) :
    ∃ s1 t, exec i s = .next s1 ∧ exec i s1 = .next t
      ∧ t.imask = b ∧ t.fmask = s.fmask ∧ SameIrqController s t ∧ SameTimer s t ∧ t.cb = s.cb ∧ SameOutside s t
      ∧ CommandEnded s .ok t ∧ t.history = endEvents s .ok ++ .setIMask s.ctx b :: s.history := by
  obtain ⟨t, h1, h2, ⟨hirq, htimer, hcb, ⟨himask, hfmask⟩, hout⟩, hend, hhist⟩ :=
    run_action_ended hm hat nofun (advance_atStep (s := { s with imask := b }) hat)
  exact ⟨_, t, h1, h2, himask, hfmask, hirq, htimer, hcb, hout, hend, hhist⟩

end Sys2Proof.Machine

namespace Sys2Proof.Proofs

open Sys2Proof Sys2Proof.Machine

/-- Settles O24: both are a read-modify-write of SHC, with the kind's own bit set or cleared in the word written back. -/
theorem faultKindsSetAndClearExactlyTheirShcBit : Obligations.FaultKindsSetAndClearExactlyTheirShcBit := by
  intro s kind bit hat hbit
  constructor
  · obtain ⟨s1, s2, t, h1, h2, h3, hshc, hrest⟩ :=
      run_rmw_shc (g := (setBits · (bitWord bit))) (micros_enableException_fault hbit) hat
    exact ⟨s1, s2, t, h1, h2, h3, fun j => by rw [hshc, setBits_bitWord_bit], hrest⟩
  · obtain ⟨s1, s2, t, h1, h2, h3, hshc, hrest⟩ :=
      run_rmw_shc (g := (clearBits · (bitWord bit))) (micros_disableException_fault hbit) hat
    exact ⟨s1, s2, t, h1, h2, h3, fun j => by rw [hshc, clearBits_bitWord_bit], hrest⟩

/-- Settles O25: each of the four commands is one micro-step on its mask, and a result. -/
theorem theMaskKindsDriveTheirOwnMask : Obligations.TheMaskKindsDriveTheirOwnMask :=
  fun _ hat => ⟨run_setFMask rfl hat, run_setFMask rfl hat, run_setIMask rfl hat, run_setIMask rfl hat⟩

/-- Settles O26: SVC_REQ is an event, and raising it moves the sequencer only. -/
theorem enablingSvcRaisesTheEventOnce : Obligations.EnablingSvcRaisesTheEventOnce := by
  intro s hat
  obtain ⟨t, h1, h2, ⟨hirq, htimer, hcb, hmasks, hout⟩, hend, hhist⟩ :=
    run_action_ended (i := .enableException 6) (m := .raiseSvc) rfl hat nofun (advance_atStep hat)
  exact ⟨_, t, h1, h2, hirq, htimer, hcb, hmasks, hout, hend, hhist⟩

/-- Settles O27: the result is the only micro-step of these commands. -/
theorem kindsWithoutTheControlDoNothing : Obligations.KindsWithoutTheControlDoNothing := by
  intro s kind p hat
  exact ⟨fun h => ⟨_, run_result (micros_enableException_without_control h) hat⟩,
    fun h => ⟨_, run_result (micros_disableException_without_control h) hat⟩,
    fun h => ⟨_, run_result (micros_setPriorityException_without_priority h) hat⟩⟩

/-- Settles O28. -/
theorem reservedKindsAreRejected : Obligations.ReservedKindsAreRejected := by
  intro s kind p hat hkind
  exact ⟨⟨_, run_result (micros_kindReserved (p := p) hkind (.inl rfl)) hat⟩,
    ⟨_, run_result (micros_kindReserved (p := p) hkind (.inr (.inl rfl))) hat⟩,
    ⟨_, run_result (micros_kindReserved hkind (.inr (.inr rfl))) hat⟩⟩

end Sys2Proof.Proofs
end

section
/-! SUPPORT. The one register an exception operation accesses, and what its micro-steps leave alone (41_exception_ops.md). -/

namespace Sys2Proof.Machine

/-- `ExceptionTarget i sel`: `sel` is the register of the kind of the exception operation `i` (30_encoding.md R98, R99). -/
inductive ExceptionTarget : Instr → Selector → Prop where
  | enableException (kind : Byte) : kind.toNat ∈ [3, 4, 5] → ExceptionTarget (.enableException kind) .shc
  | disableException (kind : Byte) : kind.toNat ∈ [3, 4, 5] → ExceptionTarget (.disableException kind) .shc
  | setPriorityException (kind : Byte) (priority : Word) (sel : Selector) (o : Nat) :
      (kind.toNat, sel, o) ∈ exceptionFields → ExceptionTarget (.setPriorityException kind priority) sel

/-- A micro-step that drives a mask or raises SVC_REQ (10_state.md R49 to R51). -/
def Micro.signals : Micro → Bool
  | .setIMask _ => true
  | .setFMask _ => true
  | .raiseSvc => true
  | _ => false

/-- Only the three fault kinds have a bit in SHC (30_encoding.md R99). -/
theorem faultKind_of_shcBit {cfg : Config} {kind : Byte} {k : Kind} {bit : Fin 32} (hk : kindOf kind = some k)
    (hd : enableDescriptor cfg k = .shcBit bit) : kind.toNat ∈ [3, 4, 5] := by
  rw [kindOf_eq_some_iff.mp hk]
  cases k with
  | memFault => decide
  | busFault => decide
  | usageFault => decide
  | _ => cases hd

/-- The table of R98 lists every kind that has a priority field. -/
theorem mem_exceptionFields {kind : Byte} {k : Kind} {sel : Selector} {o : Nat} (hk : kindOf kind = some k)
    (hd : priorityDescriptor k = some (sel, o)) : (kind.toNat, sel, o) ∈ exceptionFields := by
  rw [kindOf_eq_some_iff.mp hk]
  cases k <;> cases hd <;> decide

/-- The kinds whose fields each system priority register holds (30_encoding.md R98). -/
theorem exceptionFields_kinds {n : Nat} {sel : Selector} {o : Nat} (h : (n, sel, o) ∈ exceptionFields) :
    (.syspri1 = sel → n ∈ [3, 4, 5]) ∧ (.syspri2 = sel → n = 6) ∧ (.syspri3 = sel → n ∈ [7, 8, 9]) := by
  have hall : ∀ f ∈ exceptionFields, (.syspri1 = f.2.1 → f.1 ∈ [3, 4, 5]) ∧ (.syspri2 = f.2.1 → f.1 = 6)
      ∧ (.syspri3 = f.2.1 → f.1 ∈ [7, 8, 9]) := by decide
  exact hall _ h

/-- Each micro-step of an exception operation accesses its one register or is a result; those of enable and disable may also
drive a mask or raise SVC_REQ (41_exception_ops.md R140, R141, R155). -/
theorem micros_onlyOn_exceptionTarget {i : Instr} {kind : Byte} {priority : Word}
    (hi : i = .enableException kind ∨ i = .disableException kind ∨ i = .setPriorityException kind priority) (cfg : Config) :
    ∀ m ∈ microsOf cfg i, ∀ l,
      (m l).OnlyOn (ExceptionTarget i) ∨ ((m l).signals = true ∧ i ≠ .setPriorityException kind priority) := by
  obtain rfl | rfl | rfl := hi
  · simp only [microsOf, microsEnableException]
    split
    next => simp [Micro.OnlyOn]
    next k hk =>
      split
      case h_3 bit hd => simp [Micro.OnlyOn, ExceptionTarget.enableException kind (faultKind_of_shcBit hk hd)]
      all_goals simp [Micro.OnlyOn, Micro.signals]
  · simp only [microsOf, microsDisableException]
    split
    next => simp [Micro.OnlyOn]
    next k hk =>
      split
      case h_3 bit hd => simp [Micro.OnlyOn, ExceptionTarget.disableException kind (faultKind_of_shcBit hk hd)]
      all_goals simp [Micro.OnlyOn, Micro.signals]
  · simp only [microsOf, microsSetPriorityException]
    split
    next => simp [Micro.OnlyOn]
    next k hk =>
      split
      next => simp [Micro.OnlyOn]
      next sel o hd =>
        split <;>
          simp [Micro.OnlyOn, ExceptionTarget.setPriorityException kind priority sel o (mem_exceptionFields hk hd)]

/-- The register of an exception operation is not TCTRL, whose read has a side effect (20_memory.md R68). -/
theorem not_exceptionTarget_tctrl (i : Instr) : ¬ ExceptionTarget i .tctrl := by
  rintro ⟨⟩
  next hmem => cases (exceptionFields_bounds hmem).1

theorem perform_signals {m : Micro} (h : m.signals = true) (s : State) :
    SameIrqController s (s.perform m) ∧ SameTimer s (s.perform m) ∧ (s.perform m).cb = s.cb := by
  cases m with
  | setIMask b => exact ⟨⟨rfl, rfl, rfl, rfl, rfl, rfl⟩, ⟨rfl, rfl, rfl, rfl, rfl, rfl⟩, rfl⟩
  | setFMask b => exact ⟨⟨rfl, rfl, rfl, rfl, rfl, rfl⟩, ⟨rfl, rfl, rfl, rfl, rfl, rfl⟩, rfl⟩
  | raiseSvc => exact ⟨⟨rfl, rfl, rfl, rfl, rfl, rfl⟩, ⟨rfl, rfl, rfl, rfl, rfl, rfl⟩, rfl⟩
  | _ => cases h

/-- What a step of an exception operation leaves of the storage: `u` is the state before it, or that state after one write of the
operation's register. Only the masks may be other than in `u`, and not by a priority operation. -/
theorem exec_exception_storage {i : Instr} {kind : Byte} {priority : Word} {s t : State} (h : exec i s = .next t)
    (hi : i = .enableException kind ∨ i = .disableException kind ∨ i = .setPriorityException kind priority) :
    ∃ u, (u = s ∨ ∃ sel v, ExceptionTarget i sel ∧ u = s.regWrite sel v)
      ∧ SameIrqController u t ∧ SameTimer u t ∧ t.cb = u.cb ∧ SameOutside u t
      ∧ (i = .setPriorityException kind priority → SameMasks u t) := by
  obtain ⟨-, rfl⟩ | ⟨-, m, hm, rfl⟩ := exec_next h
  · exact ⟨s, .inl rfl, ⟨rfl, rfl, rfl, rfl, rfl, rfl⟩, ⟨rfl, rfl, rfl, rfl, rfl, rfl⟩, rfl, ⟨rfl, rfl, rfl, rfl⟩,
      fun _ => ⟨rfl, rfl⟩⟩
  · obtain hon | ⟨hsig, hne⟩ := micros_onlyOn_exceptionTarget hi s.cfg m hm s.lat
    · obtain ⟨hirq, htimer, hcb, hmasks, hout⟩ | ⟨sel, v, hsel, hirq, htimer, hcb, hmasks, hout⟩ :=
        perform_onlyOn (not_exceptionTarget_tctrl i) hon s
      · exact ⟨s, .inl rfl, hirq, htimer, hcb, hout, fun _ => hmasks⟩
      · exact ⟨_, .inr ⟨sel, v, hsel, rfl⟩, hirq, htimer, hcb, hout, fun _ => hmasks⟩
    · obtain ⟨hirq, htimer, hcb⟩ := perform_signals hsig s
      exact ⟨s, .inl rfl, hirq, htimer, hcb, perform_sameOutside _ s, fun he => absurd he hne⟩

end Sys2Proof.Machine

namespace Sys2Proof.Proofs

open Sys2Proof Sys2Proof.Machine

/-- Settles O45: a step of an exception operation changes no register, or what a write of its one register changes. -/
theorem exceptionOperationFrame : Obligations.ExceptionOperationFrame := by
  intro i kind priority s t h hi
  obtain ⟨hother, hnormal⟩ := exec_outside h
  have hgoes := exec_goes_on h
  obtain ⟨u, hu, ⟨hien, hpri, hshc, hp1, hp2, hp3⟩, htimer, hcb, hout, hmasks⟩ := exec_exception_storage h hi
  obtain rfl | ⟨sel, v, hsel, rfl⟩ := hu
  · exact ⟨hien, hpri, htimer, hcb, hout, fun _ => ⟨hp1, hp2, hp3, fun hne => absurd hshc hne⟩,
      fun he => ⟨hshc, hmasks he, fun hne => absurd hp1 hne, fun hne => absurd hp2 hne, fun hne => absurd hp3 hne⟩,
      hother, hnormal, hgoes⟩
  · cases hsel with
    | enableException kind' hk =>
      obtain rfl : kind' = kind := by simpa using hi
      exact ⟨hien, hpri, htimer, hcb, hout, fun _ => ⟨hp1, hp2, hp3, fun _ => hk⟩, nofun, hother, hnormal, hgoes⟩
    | disableException kind' hk =>
      obtain rfl : kind' = kind := by simpa using hi
      exact ⟨hien, hpri, htimer, hcb, hout, fun _ => ⟨hp1, hp2, hp3, fun _ => hk⟩, nofun, hother, hnormal, hgoes⟩
    | setPriorityException kind' p sel o hmem =>
      obtain ⟨rfl, rfl⟩ : kind' = kind ∧ p = priority := by simpa using hi
      obtain ⟨hsys, -⟩ := exceptionFields_bounds hmem
      obtain ⟨hk1, hk2, hk3⟩ := exceptionFields_kinds hmem
      have hstore : SameStorage (s.regWrite sel v) t :=
        ⟨⟨hien, hpri, hshc, hp1, hp2, hp3⟩, htimer, hcb, hmasks rfl, hout⟩
      obtain ⟨htimer', hien', hpri', hcb', hmasks', hout'⟩ := systemPriority_regWrite_frame hsys hstore
      have hkept : ∀ reg, reg ≠ sel → t.regValue reg = s.regValue reg := fun reg hne =>
        (regValue_of_sameStorage hstore reg).trans ((regValue_regWrite_systemPriority hsys v s).2 reg hne)
      have hchanged : ∀ reg, t.regValue reg ≠ s.regValue reg → reg = sel := fun reg hne =>
        not_not.mp fun hreg => hne (hkept reg hreg)
      have hshc' : t.shc = s.shc := hkept .shc (by rintro rfl; cases hsys)
      exact ⟨hien', hpri', htimer', hcb', hout', fun hne => absurd rfl hne,
        fun _ => ⟨hshc', hmasks', fun hne => hk1 (hchanged .syspri1 hne), fun hne => hk2 (hchanged .syspri2 hne),
          fun hne => hk3 (hchanged .syspri3 hne)⟩,
        hother, hnormal, hgoes⟩

end Sys2Proof.Proofs
end

section
/-! SUPPORT. The sequences of accesses the timer-driver operations are made of (42_timer_ops.md R170, R172, R181 to R183): the three
writes that load a stopped timer, and the read-modify-write of TCTRL. -/

namespace Sys2Proof.Machine

/-- Nothing of `t` is other than in `s` but the timer's registers, the slot, the banks, the context and the history: what the
timer driver does not own. -/
abbrev SameOutsideDriver (s t : State) : Prop := SameIrqController s t ∧ SameMasks s t ∧ SameOutside s t

theorem sameOutsideDriver_trans {s t u : State} (h : SameOutsideDriver s t) (h' : SameOutsideDriver t u) :
    SameOutsideDriver s u := by
  obtain ⟨⟨hien, hpri, hshc, hp1, hp2, hp3⟩, ⟨him, hfm⟩, htp, hcfg, hin, hdr⟩ := h
  simpa only [SameOutsideDriver, SameIrqController, SamePriorities, SameSystemRegisters, SameMasks, SameOutside, hien, hpri,
    hshc, hp1, hp2, hp3, him, hfm, htp, hcfg, hin, hdr] using h'

/-- A micro-step of the timer driver (42_timer_ops.md). -/
theorem perform_sameOutsideDriver {m : Micro} (h : m.onTimerSide = true) (s : State) :
    SameOutsideDriver s (s.perform m) := by
  have hmask := mask_of_onTimerSide h
  exact ⟨perform_sameIrqController h s, ⟨perform_imask (by simp [hmask]) s, perform_fmask (by simp [hmask]) s⟩,
    perform_sameOutside m s⟩

theorem inProgress_trans {s t u : State} {j k : Nat} (h : InProgress s t j) (h' : InProgress t u k) : InProgress s u k where
  atStep := h'.atStep
  cfg := h'.cfg.trans h.cfg
  ctx := h'.ctx.trans h.ctx
  handlerActive := h'.handlerActive.trans h.handlerActive
  other := (h.ctx ▸ h'.other).trans h.other
  saved := h'.saved.trans h.saved
  op := h'.op.trans h.op

/-- The end of a command, which changes no storage. -/
theorem run_end {i : Instr} {s t : State} {k : Nat} {m : Latches → Micro} {c : ResultCode} (h : InProgress s t (k + 1))
    (hm : (microsOf s.cfg i)[k]? = some m) (hc : m t.lat = .result c) :
    ∃ u, exec i t = .next u ∧ SameStorage t u ∧ CommandEnded s c u ∧ u.history = endEvents s c ++ t.history := by
  obtain ⟨hirq, htimer, hcb, hmasks, hout, -⟩ := finish_onlyEnded c t
  exact ⟨t.finish c, by rw [inProgress_exec h hm, hc, perform_result], ⟨hirq, htimer, hcb, hmasks, hout⟩,
    inProgress_finish h c⟩

/-! The three writes. -/

/-- TCTRL cleared, a reload written, TCURRENT cleared: so `Init` and `StartBusyWait` begin, and so `StartBusyWait` and `DeInit`
leave the timer at the end (42_timer_ops.md R170, R172, R183). -/
def State.loadTimer (v : Word) (s : State) : State :=
  ((s.perform (.write .tctrl 0)).perform (.write .treload v)).perform (.write .tcurrent 0)

theorem loadTimer_registers (v : Word) (s : State) :
    (s.loadTimer v).enable = false ∧ (s.loadTimer v).tickInt = false ∧ (s.loadTimer v).clkSrc = false
      ∧ (s.loadTimer v).countFlag = false ∧ (s.loadTimer v).treload = truncTimer s.cfg v ∧ (s.loadTimer v).tcurrent = 0 := by
  simp [State.loadTimer, perform_write, regWrite_tctrl, regWrite_treload, regWrite_tcurrent]

@[simp] theorem loadTimer_cfg (v : Word) (s : State) : (s.loadTimer v).cfg = s.cfg := by
  simp [State.loadTimer]
@[simp] theorem loadTimer_ctx (v : Word) (s : State) : (s.loadTimer v).ctx = s.ctx := by
  simp [State.loadTimer, perform_write]
@[simp] theorem loadTimer_cb (v : Word) (s : State) : (s.loadTimer v).cb = s.cb := by
  simp [State.loadTimer, perform_write]
@[simp] theorem loadTimer_lat (v : Word) (s : State) : (s.loadTimer v).lat = { s.lat with ustep := s.lat.ustep + 3 } := by
  simp [State.loadTimer, perform_write]
@[simp] theorem loadTimer_history (v : Word) (s : State) :
    (s.loadTimer v).history
      = .write s.ctx .tcurrent 0 :: .write s.ctx .treload v :: .write s.ctx .tctrl 0 :: s.history := by
  simp [State.loadTimer, perform_write]

theorem loadTimer_frame (v : Word) (s : State) : SameOutsideDriver s (s.loadTimer v) :=
  sameOutsideDriver_trans
    (sameOutsideDriver_trans (perform_sameOutsideDriver rfl s) (perform_sameOutsideDriver rfl _))
    (perform_sameOutsideDriver rfl _)

/-- TCTRL reads 0 where the mode bits and COUNTFLAG are 0 (10_state.md R40). -/
@[simp] theorem loadTimer_tctrl (v : Word) (s : State) : (s.loadTimer v).regValue .tctrl = 0 := by
  obtain ⟨hen, hint, hclk, hflag, -⟩ := loadTimer_registers v s
  simp [State.regValue, State.tctrlWord, flagWord, hen, hint, hclk, hflag]

/-- The chain of the three writes, wherever they stand in a command. -/
theorem run_loadTimer {i : Instr} {s t : State} {k : Nat} {v : Word} (h : InProgress s t (k + 1))
    (h1 : (microsOf s.cfg i)[k]? = some fun _ => .write .tctrl 0)
    (h2 : (microsOf s.cfg i)[k + 1]? = some fun _ => .write .treload v)
    (h3 : (microsOf s.cfg i)[k + 2]? = some fun _ => .write .tcurrent 0) :
    ∃ t1 t2, exec i t = .next t1 ∧ exec i t1 = .next t2 ∧ exec i t2 = .next (t.loadTimer v)
      ∧ InProgress s (t.loadTimer v) (k + 4) := by
  have hp1 := inProgress_write h .tctrl 0
  have hp2 := inProgress_write hp1 .treload v
  exact ⟨_, _, inProgress_exec h h1, inProgress_exec hp1 h2, inProgress_exec hp2 h3, inProgress_write hp2 .tcurrent 0⟩

theorem truncTimer_zero (cfg : Config) : truncTimer cfg 0 = 0 := by
  simp [truncTimer]

/-! The read-modify-write of TCTRL. -/

/-- TCTRL read, and `g` of the word written back (20_memory.md R66). -/
def State.rewriteTctrl (g : Word → Word) (s : State) : State :=
  (s.perform (.read .tctrl)).perform (.write .tctrl (g (s.regValue .tctrl)))

/-- The mode bits are those of the word written, and the read has cleared COUNTFLAG (20_memory.md R68). -/
theorem rewriteTctrl_registers (g : Word → Word) (s : State) :
    (s.rewriteTctrl g).enable = (g (s.regValue .tctrl)).getLsbD s.cfg.tctrlEnableBit.val
      ∧ (s.rewriteTctrl g).tickInt = (g (s.regValue .tctrl)).getLsbD s.cfg.tctrlTickIntBit.val
      ∧ (s.rewriteTctrl g).clkSrc = (g (s.regValue .tctrl)).getLsbD s.cfg.tctrlClkSrcBit.val
      ∧ (s.rewriteTctrl g).countFlag = false ∧ (s.rewriteTctrl g).treload = s.treload
      ∧ (s.rewriteTctrl g).tcurrent = s.tcurrent := by
  simp [State.rewriteTctrl, perform_read, perform_write, regWrite_tctrl]

@[simp] theorem rewriteTctrl_cb (g : Word → Word) (s : State) : (s.rewriteTctrl g).cb = s.cb := by
  simp [State.rewriteTctrl, perform_read, perform_write]
@[simp] theorem rewriteTctrl_lat (g : Word → Word) (s : State) :
    (s.rewriteTctrl g).lat = { s.lat with t := s.regValue .tctrl, ustep := s.lat.ustep + 2 } := by
  simp [State.rewriteTctrl, perform_read, perform_write]
@[simp] theorem rewriteTctrl_history (g : Word → Word) (s : State) :
    (s.rewriteTctrl g).history
      = .write s.ctx .tctrl (g (s.regValue .tctrl)) :: .read s.ctx .tctrl (s.regValue .tctrl) :: s.history := by
  simp [State.rewriteTctrl, perform_read, perform_write]

theorem rewriteTctrl_frame (g : Word → Word) (s : State) : SameOutsideDriver s (s.rewriteTctrl g) :=
  sameOutsideDriver_trans (perform_sameOutsideDriver rfl s) (perform_sameOutsideDriver rfl _)

/-- The chain of the two accesses, wherever they stand in a command. -/
theorem run_rewriteTctrl {i : Instr} {s t : State} {k : Nat} {g : Word → Word} (h : InProgress s t (k + 1))
    (h1 : (microsOf s.cfg i)[k]? = some fun _ => .read .tctrl)
    (h2 : (microsOf s.cfg i)[k + 1]? = some fun l => .write .tctrl (g l.t)) :
    ∃ t1, exec i t = .next t1 ∧ exec i t1 = .next (t.rewriteTctrl g) ∧ InProgress s (t.rewriteTctrl g) (k + 3) := by
  have hp1 := inProgress_read h .tctrl
  have hT : (t.perform (.read .tctrl)).lat.t = t.regValue .tctrl := by rw [perform_read, readIntoT_lat]
  refine ⟨_, inProgress_exec h h1, ?_, inProgress_write hp1 .tctrl _⟩
  rw [inProgress_exec hp1 h2, hT, State.rewriteTctrl]

/-- A command that rewrites TCTRL so that ENABLE gets the value `b` and every other bit of the word read is kept. -/
theorem run_rewriteEnable {i : Instr} {s : State} {b : Bool} {g : Word → Word}
    (hm : microsOf s.cfg i = [fun _ => .read .tctrl, fun l => .write .tctrl (g l.t), fun _ => .result .ok])
    (hwf : s.cfg.wellFormed = true) (hat : s.AtStep 1)
    (hg : ∀ t j, (g t).getLsbD j = if j = s.cfg.tctrlEnableBit.val then b else t.getLsbD j) :
    ∃ s1 s2 t, exec i s = .next s1 ∧ exec i s1 = .next s2 ∧ exec i s2 = .next t
      ∧ t.enable = b ∧ t.countFlag = false
      ∧ t.tickInt = s.tickInt ∧ t.clkSrc = s.clkSrc ∧ t.treload = s.treload ∧ t.tcurrent = s.tcurrent
      ∧ SameIrqController s t ∧ t.cb = s.cb ∧ SameMasks s t ∧ SameOutside s t ∧ CommandEnded s .ok t
      ∧ t.history = endEvents s .ok ++ .write s.ctx .tctrl (g (s.regValue .tctrl))
          :: .read s.ctx .tctrl (s.regValue .tctrl) :: s.history := by
  obtain ⟨s1, h1, h2, hp⟩ := run_rewriteTctrl (i := i) (g := g) (inProgress_start hat) (by rw [hm]; rfl) (by rw [hm]; rfl)
  obtain ⟨t, h3, ⟨tirq, ⟨ten, tint, tclk, tflag, trel, tcur⟩, hcb, tmasks, tout⟩, hend, hhist⟩ :=
    run_end (i := i) (c := .ok) hp (by rw [hm]; rfl) rfl
  obtain ⟨hirq, hmasks, hout⟩ := sameOutsideDriver_trans (rewriteTctrl_frame g s) ⟨tirq, tmasks, tout⟩
  obtain ⟨hen, hint, hclk, hflag, hrel, hcur⟩ := rewriteTctrl_registers g s
  obtain ⟨-, wint, wclk, -⟩ := Proofs.tctrlWordShowsItsFields s hwf
  obtain ⟨-, hei, hec, -⟩ := wellFormed_positions hwf
  rw [hg, if_pos rfl] at hen
  rw [hg, if_neg (Fin.val_ne_of_ne hei.symm), wint] at hint
  rw [hg, if_neg (Fin.val_ne_of_ne hec.symm), wclk] at hclk
  rw [rewriteTctrl_history] at hhist
  rw [rewriteTctrl_cb] at hcb
  exact ⟨s1, _, t, h1, h2, h3, ten.trans hen, tflag.trans hflag, tint.trans hint, tclk.trans hclk, trel.trans hrel,
    tcur.trans hcur, hirq, hcb, hmasks, hout, hend, hhist⟩

theorem setBits_enBit_bit (cfg : Config) (t : Word) (j : Nat) :
    (setBits t (enBit cfg)).getLsbD j = if j = cfg.tctrlEnableBit.val then true else t.getLsbD j := by
  rw [enBit, setBits_bitWord_bit]
  split <;> simp [*]

theorem clearBits_enBit_bit (cfg : Config) (t : Word) (j : Nat) :
    (clearBits t (enBit cfg)).getLsbD j = if j = cfg.tctrlEnableBit.val then false else t.getLsbD j := by
  rw [enBit, clearBits_bitWord_bit]
  split <;> simp [*]

/-! Both, one after the other. -/

/-- The first five micro-steps of `Init` and `StartBusyWait` (42_timer_ops.md R170, R172). -/
def State.armTimer (v : Word) (g : Word → Word) (s : State) : State := (s.loadTimer v).rewriteTctrl g

/-- TCTRL reads 0 after the load, so the mode bits are those of `g 0`. -/
theorem armTimer_registers (v : Word) (g : Word → Word) (s : State) :
    (s.armTimer v g).enable = (g 0).getLsbD s.cfg.tctrlEnableBit.val
      ∧ (s.armTimer v g).tickInt = (g 0).getLsbD s.cfg.tctrlTickIntBit.val
      ∧ (s.armTimer v g).clkSrc = (g 0).getLsbD s.cfg.tctrlClkSrcBit.val
      ∧ (s.armTimer v g).countFlag = false ∧ (s.armTimer v g).treload = truncTimer s.cfg v
      ∧ (s.armTimer v g).tcurrent = 0 := by
  obtain ⟨hen, hint, hclk, hflag, hrel, hcur⟩ := rewriteTctrl_registers g (s.loadTimer v)
  obtain ⟨-, -, -, -, hrel', hcur'⟩ := loadTimer_registers v s
  rw [loadTimer_tctrl, loadTimer_cfg] at hen hint hclk
  exact ⟨hen, hint, hclk, hflag, hrel.trans hrel', hcur.trans hcur'⟩

@[simp] theorem armTimer_cb (v : Word) (g : Word → Word) (s : State) : (s.armTimer v g).cb = s.cb := by
  simp [State.armTimer]
@[simp] theorem armTimer_lat (v : Word) (g : Word → Word) (s : State) :
    (s.armTimer v g).lat = { s.lat with t := 0, ustep := s.lat.ustep + 5 } := by
  simp [State.armTimer]
@[simp] theorem armTimer_history (v : Word) (g : Word → Word) (s : State) :
    (s.armTimer v g).history
      = .write s.ctx .tctrl (g 0) :: .read s.ctx .tctrl 0 :: .write s.ctx .tcurrent 0 :: .write s.ctx .treload v
        :: .write s.ctx .tctrl 0 :: s.history := by
  simp [State.armTimer]

theorem armTimer_frame (v : Word) (g : Word → Word) (s : State) : SameOutsideDriver s (s.armTimer v g) :=
  sameOutsideDriver_trans (loadTimer_frame v s) (rewriteTctrl_frame g _)

/-- The chain of these five, where a command begins with them. -/
theorem run_armTimer {i : Instr} {s : State} {v : Word} {g : Word → Word} {ms : List (Latches → Micro)} (hat : s.AtStep 1)
    (hm : microsOf s.cfg i
      = (fun _ => .write .tctrl 0) :: (fun _ => .write .treload v) :: (fun _ => .write .tcurrent 0)
        :: (fun _ => .read .tctrl) :: (fun l => .write .tctrl (g l.t)) :: ms) :
    ∃ s1 s2 s3 s4, exec i s = .next s1 ∧ exec i s1 = .next s2 ∧ exec i s2 = .next s3 ∧ exec i s3 = .next s4
      ∧ exec i s4 = .next (s.armTimer v g) ∧ InProgress s (s.armTimer v g) 6 := by
  obtain ⟨s1, s2, h1, h2, h3, hp⟩ := run_loadTimer (i := i) (v := v) (inProgress_start hat) (by rw [hm]; rfl)
    (by rw [hm]; rfl) (by rw [hm]; rfl)
  obtain ⟨s4, h4, h5, hp'⟩ := run_rewriteTctrl (i := i) (g := g) hp (by rw [hm]; rfl) (by rw [hm]; rfl)
  exact ⟨s1, s2, _, s4, h1, h2, h3, h4, h5, hp'⟩

/-- The word `Init` writes back over the word it read (42_timer_ops.md R170). -/
def initMode (cfg : Config) (t : Word) : Word := t ||| enBit cfg ||| intBit cfg ||| clkBit cfg

theorem initMode_zero (cfg : Config) :
    initMode cfg 0
      = 1#32 <<< cfg.tctrlEnableBit.val ||| 1#32 <<< cfg.tctrlTickIntBit.val ||| 1#32 <<< cfg.tctrlClkSrcBit.val := by
  simp only [initMode, BitVec.ofNat_eq_ofNat, BitVec.zero_or, enBit, intBit, clkBit, bitWord]

theorem initMode_bits (cfg : Config) :
    (initMode cfg 0).getLsbD cfg.tctrlEnableBit.val = true ∧ (initMode cfg 0).getLsbD cfg.tctrlTickIntBit.val = true
      ∧ (initMode cfg 0).getLsbD cfg.tctrlClkSrcBit.val = true := by
  simp only [initMode, BitVec.getLsbD_or, enBit, intBit, clkBit, bitWord_bit, decide_true, Bool.or_true, Bool.true_or, and_self]

theorem perform_storeCb_cb (f : Option Reference) (s : State) : (s.perform (.storeCb f)).cb = f := rfl

theorem perform_storeCb_history (f : Option Reference) (s : State) :
    (s.perform (.storeCb f)).history = .cbStore s.ctx f :: s.history := rfl

theorem inProgress_storeCb {s t : State} {k : Nat} (h : InProgress s t k) (f : Option Reference) :
    InProgress s (t.perform (.storeCb f)) (k + 1) :=
  inProgress_trans h (inProgress_perform nofun (advance_atStep (s := { t with cb := f }) h.atStep))

end Sys2Proof.Machine

namespace Sys2Proof.Proofs

open Sys2Proof Sys2Proof.Machine

/-- Settles O30: the timer is loaded, and TCTRL, which then reads 0, rewritten with the three mode bits. -/
theorem initArmsTheTimer : Obligations.InitArmsTheTimer := by
  intro s p hat
  obtain ⟨s1, s2, s3, s4, h1, h2, h3, h4, h5, hp⟩ :=
    run_armTimer (i := .init p) (v := reload32 s.cfg p) (g := initMode s.cfg) hat rfl
  obtain ⟨t, h6, ⟨tirq, ⟨ten, tint, tclk, tflag, trel, tcur⟩, hcb, tmasks, tout⟩, hend, hhist⟩ :=
    run_end (i := .init p) (c := .ok) hp rfl rfl
  obtain ⟨hirq, hmasks, hout⟩ := sameOutsideDriver_trans (armTimer_frame _ _ s) ⟨tirq, tmasks, tout⟩
  obtain ⟨hen, hint, hclk, hflag, hrel, hcur⟩ := armTimer_registers (reload32 s.cfg p) (initMode s.cfg) s
  obtain ⟨ben, bint, bclk⟩ := initMode_bits s.cfg
  rw [armTimer_history, initMode_zero] at hhist
  rw [armTimer_cb] at hcb
  exact ⟨s1, s2, s3, s4, _, t, h1, h2, h3, h4, h5, h6, ten.trans (hen.trans ben), tint.trans (hint.trans bint),
    tclk.trans (hclk.trans bclk), tflag.trans hflag, tcur.trans hcur, trel.trans hrel, hirq, hcb, hmasks, hout, hend, hhist⟩

/-- Settles O41: TCTRL is rewritten with ENABLE set in the word it read. -/
theorem startSetsOnlyEnable : Obligations.StartSetsOnlyEnable :=
  fun _ hwf hat => run_rewriteEnable rfl hwf hat (setBits_enBit_bit _)

/-- Settles O42: TCTRL is rewritten with ENABLE cleared in the word it read. -/
theorem stopClearsOnlyEnable : Obligations.StopClearsOnlyEnable :=
  fun _ hwf hat => run_rewriteEnable rfl hwf hat (clearBits_enBit_bit _)

/-- Settles O43: the timer is loaded with 0, and then the slot emptied. -/
theorem deInitZeroesTheTimerAndTheSlot : Obligations.DeInitZeroesTheTimerAndTheSlot := by
  intro s hat
  obtain ⟨s1, s2, h1, h2, h3, hp⟩ := run_loadTimer (i := .deInit) (v := 0) (inProgress_start hat) rfl rfl rfl
  have hp' := inProgress_storeCb hp none
  obtain ⟨t, h5, ⟨tirq, ⟨ten, tint, tclk, tflag, trel, tcur⟩, hcb, tmasks, tout⟩, hend, hhist⟩ :=
    run_end (i := .deInit) (c := .ok) hp' rfl rfl
  obtain ⟨hirq, hmasks, hout⟩ := sameOutsideDriver_trans (loadTimer_frame 0 s)
    (sameOutsideDriver_trans (perform_sameOutsideDriver rfl _) ⟨tirq, tmasks, tout⟩)
  obtain ⟨sen, sint, sclk, sflag, srel, scur⟩ := perform_sameTimer (m := .storeCb none) rfl (s.loadTimer 0)
  obtain ⟨hen, hint, hclk, hflag, hrel, hcur⟩ := loadTimer_registers 0 s
  rw [truncTimer_zero] at hrel
  rw [perform_storeCb_cb] at hcb
  rw [perform_storeCb_history, loadTimer_history, loadTimer_ctx] at hhist
  exact ⟨s1, s2, _, _, t, h1, h2, h3, inProgress_exec hp rfl, h5, ten.trans (sen.trans hen), tint.trans (sint.trans hint),
    tclk.trans (sclk.trans hclk), tflag.trans (sflag.trans hflag), trel.trans (srel.trans hrel), tcur.trans (scur.trans hcur),
    hcb, hirq, hmasks, hout, hend, hhist⟩

end Sys2Proof.Proofs
end

section
/-! SUPPORT. The callback slot: its load and the call-out of `Handler`, and the callback's return (42_timer_ops.md R176 to R180). -/

namespace Sys2Proof.Machine

theorem sameStorage_trans {s t u : State} (h : SameStorage s t) (h' : SameStorage t u) : SameStorage s u := by
  obtain ⟨⟨hien, hpri, hshc, hp1, hp2, hp3⟩, ⟨hen, hint, hclk, hflag, hrel, hcur⟩, hcb, ⟨him, hfm⟩, htp, hcfg, hin, hdr⟩ := h
  simpa only [SameStorage, SameIrqController, SamePriorities, SameSystemRegisters, SameTimer, SameMasks, SameOutside, hien, hpri,
    hshc, hp1, hp2, hp3, hen, hint, hclk, hflag, hrel, hcur, hcb, him, hfm, htp, hcfg, hin, hdr] using h'

theorem callbackWellFormed_of_ne {f : Option Reference} (h : f ≠ some 0) : callbackWellFormed f = true := by
  cases f with
  | none => rfl
  | some g => exact bne_iff_ne.mpr fun hg => h (congrArg some hg)

theorem inProgress_loadCb {s : State} {k : Nat} (h : s.AtStep k) : InProgress s (s.perform .loadCb) (k + 1) := by
  obtain ⟨hstep, hcall⟩ := h
  exact inProgress_perform nofun (by simp [State.AtStep, perform_loadCb, hstep, hcall])

theorem loadCb_sameStorage (s : State) : SameStorage s (s.perform .loadCb) :=
  ⟨⟨rfl, rfl, rfl, rfl, rfl, rfl⟩, ⟨rfl, rfl, rfl, rfl, rfl, rfl⟩, rfl, ⟨rfl, rfl⟩, rfl, rfl, rfl, rfl⟩

theorem perform_loadCb_f (s : State) : (s.perform .loadCb).lat.f = s.cb := by
  rw [perform_loadCb, record_lat, setLat_lat]

theorem perform_loadCb_history (s : State) : (s.perform .loadCb).history = .cbLoad s.ctx s.cb :: s.history := rfl

/-- The first micro-step of `Handler` loads the slot, and the second is the call-out or the result that the loaded value asks for
(42_timer_ops.md R178). -/
theorem run_handler_load {s : State} (hat : s.AtStep 1) :
    exec .handler s = .next (s.perform .loadCb)
      ∧ exec .handler (s.perform .loadCb) = .next ((s.perform .loadCb).perform (handlerCall s.cb)) := by
  refine ⟨exec_at_step (k := 0) (m := fun _ => .loadCb) hat rfl, ?_⟩
  rw [← perform_loadCb_f s]
  exact exec_at_step (k := 1) (m := fun l => handlerCall l.f) (inProgress_loadCb hat).atStep rfl

theorem callReturn_of_calling {s : State} {g : Reference} (h : s.lat.calling = some g) :
    s.callReturn = (s.setLat { s.lat with calling := none, ustep := s.lat.ustep + 1 }).record (.ret g) := by
  simp only [State.callReturn, h]

theorem callReturn_of_none {s : State} (h : s.lat.calling = none) : s.callReturn = s := by
  simp only [State.callReturn, h]

/-- The callback's return is taken in one step by a bank that waits (42_timer_ops.md R179). -/
theorem step_callReturn {s : State} {rest : List Input} (hin : s.inputs = .callReturn :: rest) (hc : s.canAccept = true) :
    step s = .next (s.withInputs rest).callReturn := by
  simp only [step, hin, State.serve, hc, if_true]

theorem setLat_setLat (l l' : Latches) (s : State) : (s.setLat l).setLat l' = s.setLat l' := by
  simp [State.setLat]

theorem perform_callOut_calling (g : Reference) (s : State) : (s.perform (.callOut g)).lat.calling = some g := by
  rw [perform_callOut, record_lat, setLat_lat]

/-- A call-out of `Handler` that has returned leaves the two events, and the next micro-step (42_timer_ops.md R179). -/
theorem callReturn_callOut {s : State} (h : s.lat.calling = none) (g : Reference) :
    (s.perform (.callOut g)).callReturn = (s.advance.record (.call g)).record (.ret g) := by
  rw [callReturn_of_calling (perform_callOut_calling g s), perform_callOut, record_lat, setLat_lat]
  show ((((s.setLat _).setLat _).record (.call g)).record (.ret g)) = _
  rw [setLat_setLat, State.advance, ← h]

theorem callReturn_callOut_sameStorage {s : State} (h : s.lat.calling = none) (g : Reference) :
    SameStorage s (s.perform (.callOut g)).callReturn := by
  rw [callReturn_callOut h]
  exact ⟨⟨rfl, rfl, rfl, rfl, rfl, rfl⟩, ⟨rfl, rfl, rfl, rfl, rfl, rfl⟩, rfl, ⟨rfl, rfl⟩, rfl, rfl, rfl, rfl⟩

theorem callReturn_callOut_history {s : State} (h : s.lat.calling = none) (g : Reference) :
    (s.perform (.callOut g)).callReturn.history = .ret g :: .call g :: s.history := by
  rw [callReturn_callOut h]
  rfl

theorem inProgress_callReturn_callOut {s t : State} {k : Nat} (h : InProgress s t k) (g : Reference) :
    InProgress s (t.perform (.callOut g)).callReturn (k + 1) := by
  obtain ⟨hstep, hcall⟩ := h.atStep
  rw [callReturn_callOut hcall]
  refine inProgress_trans h ⟨?_, rfl, rfl, rfl, bankOf_other_advance t, ?_, ?_⟩
  · exact advance_atStep ⟨hstep, hcall⟩
  · simp
  · simp

end Sys2Proof.Machine

namespace Sys2Proof.Proofs

open Sys2Proof Sys2Proof.Machine

/-- Settles O36: the store of the operand is the one action of the command. -/
theorem setCallBackReplacesTheSlot : Obligations.SetCallBackReplacesTheSlot := by
  intro s fn hne hat
  have hm : microsOf s.cfg (.setCallBack fn) = [fun _ => .storeCb fn, fun _ => .result .ok] := by
    simp only [microsOf, microsSetCallBack, callbackOfWord_wordOfCallback fn (callbackWellFormed_of_ne hne)]
  obtain ⟨t, h1, h2, ⟨hirq, htimer, hcb, hmasks, hout⟩, hend, hhist⟩ :=
    run_action_ended hm hat nofun (advance_atStep (s := { s with cb := fn }) hat)
  exact ⟨_, t, h1, h2, rfl, hcb, hirq, htimer, hmasks, hout, hend, hhist⟩

/-- Settles O37: the value loaded is `none`, so the second micro-step is the result. -/
theorem handlerWithAnEmptySlotMakesNoCall : Obligations.HandlerWithAnEmptySlotMakesNoCall := by
  intro s hat hcb
  obtain ⟨h1, -⟩ := run_handler_load hat
  obtain ⟨t, h2, hstore, hend, hhist⟩ := run_end (i := .handler) (m := fun l => handlerCall l.f) (c := .nopNoCallback)
    (inProgress_loadCb hat) rfl (by rw [perform_loadCb_f, hcb]; rfl)
  obtain ⟨hirq, htimer, hcb', hmasks, hout⟩ := sameStorage_trans (loadCb_sameStorage s) hstore
  rw [perform_loadCb_history, hcb] at hhist
  exact ⟨_, t, h1, h2, hirq, htimer, hcb'.trans hcb, hmasks, hout, hend, hhist⟩

/-- Settles O38: the value loaded is `g`, so the second micro-step calls it, and the return brings the command to its result. -/
theorem handlerCallsTheCallbackOnceAndWaits : Obligations.HandlerCallsTheCallbackOnceAndWaits := by
  intro s g hat hcb
  obtain ⟨h1, h2⟩ := run_handler_load hat
  rw [hcb, handlerCall] at h2
  have hp := inProgress_loadCb hat
  obtain ⟨-, hnone⟩ := hp.atStep
  obtain ⟨t, h3, hstore, hend, hhist⟩ := run_end (i := .handler) (c := .ok) (inProgress_callReturn_callOut hp g) rfl rfl
  obtain ⟨hirq, htimer, hcb', hmasks, hout⟩ := sameStorage_trans (loadCb_sameStorage s)
    (sameStorage_trans (callReturn_callOut_sameStorage hnone g) hstore)
  have hcalling := perform_callOut_calling g (s.perform .loadCb)
  rw [callReturn_callOut_history hnone, perform_loadCb_history, hcb] at hhist
  exact ⟨_, _, t, h1, h2, hcalling, runContext_waits (by simp [State.canAccept, hcalling]), h3, hirq, htimer, hcb', hmasks, hout,
    hend, hhist⟩

/-- Settles O39: the return is taken where the bank waits, and has no effect where no call-out does. -/
theorem theCallbackReturnResumesTheHandler : Obligations.TheCallbackReturnResumesTheHandler := by
  intro s rest hin hc
  refine ⟨_, step_callReturn hin hc, ?_⟩
  cases hcall : s.lat.calling with
  | none =>
    rw [callReturn_of_none (s := s.withInputs rest) hcall]
    exact ⟨nofun, fun _ => rfl, ⟨rfl, rfl, rfl, rfl, rfl, rfl⟩, ⟨rfl, rfl, rfl, rfl, rfl, rfl⟩, rfl, ⟨rfl, rfl⟩, ⟨rfl, rfl, rfl⟩,
      rfl, rfl, rfl, rfl, rfl, rfl⟩
  | some g =>
    have hother := callReturn_other (s.withInputs rest)
    rw [callReturn_of_calling (s := s.withInputs rest) hcall] at hother ⊢
    refine ⟨fun g' hg => ?_, nofun, ⟨rfl, rfl, rfl, rfl, rfl, rfl⟩, ⟨rfl, rfl, rfl, rfl, rfl, rfl⟩, rfl, ⟨rfl, rfl⟩,
      ⟨rfl, rfl, hother⟩, rfl, ?_, ?_, rfl, rfl, rfl⟩
    · obtain rfl : g = g' := Option.some.inj hg
      exact ⟨by rw [record_lat, setLat_lat]; rfl, rfl⟩
    · simp
    · simp

end Sys2Proof.Proofs
end

section
/-! SUPPORT. The tick of the timer and runs of ticks (60_exceptions.md R218), and the reload of a period (42_timer_ops.md R171). -/

namespace Sys2Proof.Machine

theorem tick_stopped {s : State} (h : s.enable = false) : s.tick = s := by
  simp [State.tick, h]

theorem tick_reloads {s : State} (he : s.enable = true) (h0 : s.tcurrent = 0) :
    s.tick = State.record .tick { s with tcurrent := s.treload } := by
  simp only [State.tick, State.countDown, he, h0, if_true]

theorem tick_counts {s : State} (he : s.enable = true) (h0 : s.tcurrent ≠ 0) :
    s.tick = State.record .tick
      { s with
        tcurrent := s.tcurrent - 1
        countFlag := s.countFlag || s.tickExpires
        tickPending := s.tickPending || (s.tickExpires && s.tickInt) } := by
  simp only [State.tick, State.countDown, he, h0, if_true, if_false]

/-- A tick to 0 raises COUNTFLAG and, with TICKINT, TICK_PENDING. -/
theorem tick_expires {s : State} (he : s.enable = true) (h1 : s.tcurrent = 1) :
    s.tick.tcurrent = 0 ∧ s.tick.countFlag = true ∧ s.tick.tickPending = (s.tickPending || s.tickInt) := by
  rw [tick_counts he (by rw [h1]; decide)]
  simp [State.tickExpires, h1]

/-- Any other tick that counts down raises nothing. -/
theorem tick_down {s : State} {k : Nat} (he : s.enable = true) (hk : s.tcurrent.toNat = k + 2) :
    s.tick.tcurrent.toNat = k + 1 ∧ s.tick.countFlag = s.countFlag ∧ s.tick.tickPending = s.tickPending := by
  have h0 : s.tcurrent ≠ 0 := fun h => by simp [h] at hk
  have h1 : s.tickExpires = false := beq_eq_false_iff_ne.mpr fun h => by simp [h] at hk
  rw [tick_counts he h0]
  refine ⟨?_, by simp [h1], by simp [h1]⟩
  have hlt := s.tcurrent.isLt
  simp only [record_tcurrent]
  bv_omega

/-- A tick changes no more than TCURRENT, the two flags and the history. -/
theorem tick_frame (s : State) :
    ∃ c f p h, s.tick = { s with tcurrent := c, countFlag := f, tickPending := p, history := h } := by
  by_cases he : s.enable = true
  · by_cases h0 : s.tcurrent = 0
    · exact ⟨_, _, _, _, tick_reloads he h0⟩
    · exact ⟨_, _, _, _, tick_counts he h0⟩
  · exact ⟨_, _, _, _, tick_stopped (eq_false_of_ne_true he)⟩

theorem ticks_frame (n : Nat) : ∀ s : State,
    ∃ c f p h, s.ticks n = { s with tcurrent := c, countFlag := f, tickPending := p, history := h } := by
  induction n with
  | zero => exact fun s => ⟨_, _, _, _, rfl⟩
  | succ n ih =>
    intro s
    obtain ⟨c, f, p, h, hn⟩ := ih s.tick
    obtain ⟨c', f', p', h', h1⟩ := tick_frame s
    exact ⟨c, f, p, h, by rw [State.ticks, hn, h1]⟩

theorem tick_mode (s : State) : s.tick.enable = s.enable ∧ s.tick.tickInt = s.tickInt ∧ s.tick.treload = s.treload := by
  obtain ⟨c, f, p, h, heq⟩ := tick_frame s
  rw [heq]
  exact ⟨rfl, rfl, rfl⟩

/-- A timer that counts from `k + 1` expires at tick `k + 1`. -/
theorem ticks_expire {k : Nat} : ∀ {s : State}, s.enable = true → s.tcurrent.toNat = k + 1 →
    (s.ticks (k + 1)).tcurrent = 0 ∧ (s.ticks (k + 1)).countFlag = true
      ∧ (s.ticks (k + 1)).tickPending = (s.tickPending || s.tickInt) := by
  induction k with
  | zero => exact fun he hk => tick_expires he (BitVec.eq_of_toNat_eq hk)
  | succ k ih =>
    intro s he hk
    obtain ⟨hc, -, hp⟩ := tick_down he hk
    obtain ⟨hen, hint, -⟩ := tick_mode s
    have h := ih (hen.trans he) hc
    rw [hp, hint] at h
    exact h

/-- From 0, one tick loads the reload and the timer expires after as many more (60_exceptions.md R218). -/
theorem ticks_expire_from_zero {s : State} (he : s.enable = true) (h0 : s.tcurrent = 0) (hr : s.treload ≠ 0) :
    (s.ticks (s.treload.toNat + 1)).tcurrent = 0 ∧ (s.ticks (s.treload.toNat + 1)).countFlag = true
      ∧ (s.ticks (s.treload.toNat + 1)).tickPending = (s.tickPending || s.tickInt) := by
  obtain ⟨k, hk⟩ := Nat.exists_eq_succ_of_ne_zero fun h => hr (BitVec.eq_of_toNat_eq h)
  rw [State.ticks, hk, tick_reloads he h0]
  exact ticks_expire (s := State.record .tick { s with tcurrent := s.treload }) he hk

theorem inProgress_ticks {s t : State} {k : Nat} (h : InProgress s t k) (n : Nat) : InProgress s (t.ticks n) k := by
  obtain ⟨c, f, p, e, heq⟩ := ticks_frame n t
  rw [heq]
  exact inProgress_trans h ⟨h.atStep, rfl, rfl, rfl, rfl, rfl, rfl⟩

/-- What TRELOAD holds after the write of `reload32`: the product less 1, modulo 2^TIMER_BITS (30_encoding.md R103). -/
theorem truncTimer_reload32 {cfg : Config} (h : cfg.timerBits ≤ 32) (p : Word) :
    (truncTimer cfg (reload32 cfg p)).toNat = (p.toNat * cfg.ticksPerMs.toNat + (2 ^ 32 - 1)) % 2 ^ cfg.timerBits := by
  have hdvd : 2 ^ cfg.timerBits ∣ 2 ^ 32 := Nat.pow_dvd_pow 2 h
  have hval : (reload32 cfg p).toNat = (p.toNat * cfg.ticksPerMs.toNat + (2 ^ 32 - 1)) % 2 ^ 32 := by
    simp only [reload32, BitVec.toNat_sub, BitVec.toNat_mul, BitVec.ofNat_eq_ofNat, BitVec.toNat_ofNat]
    omega
  rw [truncTimer_toNat h, hval, Nat.mod_mod_of_dvd _ hdvd]

/-- `n - 1` modulo `m`, computed with a wrap at a multiple `d` of `m`, is `n - 1` exactly where that is below `m`. -/
theorem add_mod_add_one_eq_iff {n m d : Nat} (hm : m ∣ d) (hpos : 0 < d) :
    (n + (d - 1)) % m + 1 = n ↔ 1 ≤ n ∧ n ≤ m := by
  obtain ⟨e, rfl⟩ := hm
  cases n with
  | zero => simp
  | succ n =>
    have hsum : n + 1 + (m * e - 1) = n + m * e := by omega
    rw [hsum, Nat.add_mul_mod_self_left]
    have hm0 : 0 < m := Nat.pos_of_mul_pos_right hpos
    constructor
    · intro h
      have := Nat.mod_lt n hm0
      omega
    · rintro ⟨-, h⟩
      rw [Nat.mod_eq_of_lt h]

end Sys2Proof.Machine

namespace Sys2Proof.Proofs

open Sys2Proof Sys2Proof.Machine

/-- Settles O31: the 32-bit wrap does not show, since 2^TIMER_BITS divides 2^32. -/
theorem theReloadIsThePeriodExactlyWhenItFits : Obligations.TheReloadIsThePeriodExactlyWhenItFits := by
  intro cfg p hwf
  obtain ⟨⟨-, hle⟩, -⟩ := wellFormed_positions hwf
  refine ⟨truncTimer_lt cfg _, ?_⟩
  rw [truncTimer_reload32 hle]
  exact add_mod_add_one_eq_iff (Nat.pow_dvd_pow 2 hle) (by decide)

end Sys2Proof.Proofs
end

section
/-! SUPPORT. The poll loop of `StartBusyWait`: a poll, the way into the loop and out of it, and the loop under any schedule of polls
and ticks (42_timer_ops.md R172, R173). -/

namespace Sys2Proof.Machine

/-- The poll of COUNTFLAG is done exactly when it reads 1 (42_timer_ops.md R172). -/
theorem pollDone_bitWord (t : Word) (bit : Fin 32) : pollDone t (bitWord bit) = t.getLsbD bit.val := by
  have hbit : (t &&& bitWord bit).getLsbD bit.val = t.getLsbD bit.val := by
    rw [BitVec.getLsbD_and, bitWord_bit, decide_eq_true rfl, Bool.and_true]
  rw [pollDone]
  cases ht : t.getLsbD bit.val with
  | true =>
    refine bne_iff_ne.mpr fun h => ?_
    rw [h, ht] at hbit
    exact Bool.false_ne_true (BitVec.getLsbD_zero.symm.trans hbit)
  | false =>
    rw [bitWord, ← BitVec.twoPow_eq, BitVec.and_twoPow, ht]
    rfl

theorem pollDone_flagBit {s : State} (hwf : s.cfg.wellFormed = true) :
    pollDone (s.regValue .tctrl) (flagBit s.cfg) = s.countFlag := by
  obtain ⟨-, -, -, hflag, -⟩ := Proofs.tctrlWordShowsItsFields s hwf
  rw [flagBit, pollDone_bitWord, hflag]

/-- The poll micro-step reads TCTRL and stays, or goes on where COUNTFLAG is 1. -/
theorem exec_poll {s : State} {p : Word} (hwf : s.cfg.wellFormed = true) (hat : s.AtStep 6) :
    exec (.startBusyWait p) s = .next (s.readIntoT .tctrl (if s.countFlag then 7 else 6)) := by
  obtain ⟨hstep, -⟩ := id hat
  rw [exec_at_step (k := 5) (m := fun _ => .poll .tctrl (flagBit s.cfg)) hat rfl, perform_poll, pollDone_flagBit hwf, hstep]

theorem inProgress_readIntoT {s t : State} {j : Nat} (h : InProgress s t j) (sel : Selector) (k : Nat) :
    InProgress s (t.readIntoT sel k) k :=
  inProgress_trans h ⟨by simp [State.AtStep, h.atStep.2], by simp, by simp, by simp, bankOf_other_readIntoT sel k t, by simp,
    by simp⟩

theorem readIntoT_sameOutsideDriver (sel : Selector) (k : Nat) (s : State) : SameOutsideDriver s (s.readIntoT sel k) := by
  simp [SameOutsideDriver, SameIrqController, SamePriorities, SameSystemRegisters, SameMasks, SameOutside]

/-- The word `StartBusyWait` writes back over the word it read (42_timer_ops.md R172). -/
def busyWaitMode (cfg : Config) (t : Word) : Word := t ||| enBit cfg ||| clkBit cfg

theorem busyWaitMode_zero (cfg : Config) :
    busyWaitMode cfg 0 = 1#32 <<< cfg.tctrlEnableBit.val ||| 1#32 <<< cfg.tctrlClkSrcBit.val := by
  simp only [busyWaitMode, BitVec.ofNat_eq_ofNat, BitVec.zero_or, enBit, clkBit, bitWord]

/-- The timer counts, and without the interrupt. -/
theorem busyWaitMode_bits {cfg : Config} (hwf : cfg.wellFormed = true) :
    (busyWaitMode cfg 0).getLsbD cfg.tctrlEnableBit.val = true ∧ (busyWaitMode cfg 0).getLsbD cfg.tctrlTickIntBit.val = false
      ∧ (busyWaitMode cfg 0).getLsbD cfg.tctrlClkSrcBit.val = true := by
  obtain ⟨-, hei, -, -, hic, -⟩ := wellFormed_positions hwf
  simp only [busyWaitMode, BitVec.ofNat_eq_ofNat, BitVec.zero_or, BitVec.getLsbD_or, enBit, clkBit, bitWord_bit,
    Fin.val_ne_of_ne hei.symm, Fin.val_ne_of_ne hic, decide_true, decide_false, Bool.true_or, Bool.or_true, Bool.or_self, and_self]

/-- Ticks that leave TICK_PENDING as it was change the timer's registers only. -/
theorem ticks_sameOutsideDriver {s : State} {n : Nat} (h : (s.ticks n).tickPending = s.tickPending) :
    (s.ticks n).cb = s.cb ∧ SameOutsideDriver s (s.ticks n) := by
  obtain ⟨c, f, p, e, heq⟩ := ticks_frame n s
  rw [heq] at h ⊢
  exact ⟨rfl, ⟨rfl, rfl, rfl, rfl, rfl, rfl⟩, ⟨rfl, rfl⟩, h, rfl, rfl, rfl⟩

/-- From a poll that sees the flag, `StartBusyWait` zeroes the timer and ends (42_timer_ops.md R172). -/
theorem run_busyWait_end {s w : State} {p : Word} (hwf : s.cfg.wellFormed = true) (h : InProgress s w 6)
    (hflag : w.countFlag = true) :
    ∃ u1 u2 u3 u4 t, exec (.startBusyWait p) w = .next u1 ∧ exec (.startBusyWait p) u1 = .next u2
      ∧ exec (.startBusyWait p) u2 = .next u3 ∧ exec (.startBusyWait p) u3 = .next u4
      ∧ exec (.startBusyWait p) u4 = .next t
      ∧ t.enable = false ∧ t.tickInt = false ∧ t.clkSrc = false ∧ t.countFlag = false ∧ t.treload = 0 ∧ t.tcurrent = 0
      ∧ t.cb = w.cb ∧ SameOutsideDriver w t ∧ CommandEnded s .ok t := by
  have hpoll := exec_poll (p := p) (h.cfg ▸ hwf) h.atStep
  rw [hflag, if_pos rfl] at hpoll
  obtain ⟨u2, u3, h2, h3, h4, hp⟩ :=
    run_loadTimer (i := .startBusyWait p) (v := 0) (inProgress_readIntoT h .tctrl 7) rfl rfl rfl
  obtain ⟨t, h5, ⟨tirq, ⟨ten, tint, tclk, tflag, trel, tcur⟩, tcb, tmasks, tout⟩, hend, -⟩ :=
    run_end (i := .startBusyWait p) (c := .ok) hp rfl rfl
  obtain ⟨hen, hint, hclk, hflag', hrel, hcur⟩ := loadTimer_registers 0 (w.readIntoT .tctrl 7)
  rw [truncTimer_zero] at hrel
  rw [loadTimer_cb, readIntoT_cb] at tcb
  exact ⟨_, u2, u3, _, t, hpoll, h2, h3, h4, h5, ten.trans hen, tint.trans hint, tclk.trans hclk, tflag.trans hflag',
    trel.trans hrel, tcur.trans hcur, tcb, sameOutsideDriver_trans (readIntoT_sameOutsideDriver .tctrl 7 w)
    (sameOutsideDriver_trans (loadTimer_frame 0 _) ⟨tirq, tmasks, tout⟩), hend⟩

/-! The loop under polls and ticks. -/

/-- No run of `n` ticks takes TCURRENT from 1 to 0: it is 0 and the reload is 0 or at least `n`, or it is more than `n`. -/
def State.QuietFor (n : Nat) (s : State) : Prop :=
  (s.tcurrent = 0 ∧ (s.treload = 0 ∨ n ≤ s.treload.toNat)) ∨ (s.treload ≠ 0 ∧ n < s.tcurrent.toNat)

theorem quietFor_of_succ {n : Nat} {s : State} (h : s.QuietFor (n + 1)) : s.QuietFor n :=
  h.imp (And.imp_right (Or.imp_right Nat.le_of_succ_le)) (And.imp_right Nat.lt_of_succ_lt)

theorem tick_quiet {n : Nat} {s : State} (h : s.QuietFor (n + 1)) :
    s.tick.QuietFor n ∧ s.tick.countFlag = s.countFlag ∧ s.tick.tickPending = s.tickPending := by
  cases he : s.enable with
  | false =>
    rw [tick_stopped he]
    exact ⟨quietFor_of_succ h, rfl, rfl⟩
  | true =>
    obtain ⟨h0, hr⟩ | ⟨hr, hn⟩ := h
    · rw [tick_reloads he h0]
      refine ⟨?_, rfl, rfl⟩
      by_cases hz : s.treload = 0
      · exact .inl ⟨hz, .inl hz⟩
      · exact .inr ⟨hz, hr.resolve_left hz⟩
    · obtain ⟨k, hk⟩ := Nat.exists_eq_add_of_le' (show 2 ≤ s.tcurrent.toNat by omega)
      obtain ⟨hc, hflag, hpend⟩ := tick_down he hk
      obtain ⟨-, -, hrel⟩ := tick_mode s
      exact ⟨.inr ⟨hrel ▸ hr, by omega⟩, hflag, hpend⟩

/-- `t` is in the poll loop entered in `s`, no flag has shown, and none will for `n` ticks. -/
structure Waiting (s : State) (n : Nat) (t : State) : Prop where
  atStep : t.AtStep 6
  word : t.latchedWord = s.latchedWord
  cfg : t.cfg = s.cfg
  countFlag : t.countFlag = false
  enable : t.enable = s.enable
  treload : t.treload = s.treload
  tickPending : t.tickPending = s.tickPending
  quiet : t.QuietFor n

theorem waiting_withInputs {s t : State} {n : Nat} (h : Waiting s n t) (x : List Input) : Waiting s n (t.withInputs x) :=
  ⟨h.atStep, h.word, h.cfg, h.countFlag, h.enable, h.treload, h.tickPending, h.quiet⟩

theorem waiting_tick {s t : State} {n : Nat} (h : Waiting s (n + 1) t) : Waiting s n t.tick := by
  obtain ⟨hquiet, hflag, hpend⟩ := tick_quiet h.quiet
  obtain ⟨c, f, p, e, heq⟩ := tick_frame t
  rw [heq] at hquiet hflag hpend ⊢
  exact ⟨h.atStep, h.word, h.cfg, hflag.trans h.countFlag, h.enable, h.treload, hpend.trans h.tickPending, hquiet⟩

theorem waiting_poll {s t : State} {n : Nat} (h : Waiting s n t) : Waiting s n (t.readIntoT .tctrl 6) := by
  refine ⟨?_, ?_, ?_, ?_, ?_, ?_, ?_, ?_⟩
  · simp [State.AtStep, h.atStep.2]
  · rw [← h.word]
    simp [State.latchedWord]
  · simp [h.cfg]
  · simp
  · simp [h.enable]
  · simp [h.treload]
  · simp [h.tickPending]
  · simpa [State.QuietFor] using h.quiet

/-- The executing context polls again. -/
theorem waiting_runContext {s t : State} {p : Word} {n : Nat} (hwf : s.cfg.wellFormed = true)
    (hd : decode s.latchedWord = .ok (.startBusyWait p)) (h : Waiting s n t) :
    t.runContext = .next (t.readIntoT .tctrl 6) := by
  rw [← h.word] at hd
  rw [← h.cfg] at hwf
  rw [runContext_eq_exec (canAccept_eq_false h.atStep) hd, exec_poll hwf h.atStep, h.countFlag, if_neg Bool.false_ne_true]

theorem tick_inputs (s : State) : s.tick.inputs = s.inputs := by
  obtain ⟨c, f, p, h, heq⟩ := tick_frame s
  rw [heq]

theorem step_tick {s : State} {rest : List Input} (hin : s.inputs = .tick :: rest) :
    step s = .next (s.withInputs rest).tick := by
  simp only [step, hin, State.serve]

/-- A step of the loop under an input that is a tick or lets the loop poll. -/
theorem waiting_step {s t : State} {p : Word} {x : Input} {xs : List Input} (hwf : s.cfg.wellFormed = true)
    (hd : decode s.latchedWord = .ok (.startBusyWait p)) (hx : TickOrMicro x = true) (hin : t.inputs = x :: xs)
    (h : Waiting s ((x :: xs).count .tick) t) :
    ∃ u, step t = .next u ∧ u.inputs = xs ∧ Waiting s (xs.count .tick) u := by
  cases x with
  | tick =>
    rw [List.count_cons_self] at h
    exact ⟨_, step_tick hin, tick_inputs _, waiting_tick (waiting_withInputs h xs)⟩
  | micro =>
    rw [List.count_cons_of_ne (by decide)] at h
    have hrest := waiting_withInputs h xs
    refine ⟨(t.withInputs xs).readIntoT .tctrl 6, ?_, by simp, waiting_poll hrest⟩
    rw [step_micro hin]
    exact waiting_runContext hwf hd hrest
  | _ => cases hx

theorem waiting_run {s : State} {p : Word} (hwf : s.cfg.wellFormed = true)
    (hd : decode s.latchedWord = .ok (.startBusyWait p)) :
    ∀ {xs : List Input} {t : State}, (∀ x ∈ xs, TickOrMicro x = true) → t.inputs = xs → Waiting s (xs.count .tick) t →
      ∃ u, core.run xs.length t = .next u ∧ Waiting s 0 u := by
  intro xs
  induction xs with
  | nil => exact fun _ _ h => ⟨_, rfl, h⟩
  | cons x xs ih =>
    intro t hxs hin h
    obtain ⟨hx, hxs'⟩ := List.forall_mem_cons.mp hxs
    obtain ⟨u, hstep, hin', h'⟩ := waiting_step hwf hd hx hin h
    rw [List.length_cons, run_next hstep]
    exact ih hxs' hin' h'

end Sys2Proof.Machine

namespace Sys2Proof.Proofs

open Sys2Proof Sys2Proof.Machine

/-- Settles O33: the poll reads TCTRL into T and stays where it is. -/
theorem aPollWithoutTheFlagPollsAgain : Obligations.APollWithoutTheFlagPollsAgain := by
  intro s p hwf hat hflag
  obtain ⟨hstep, hcall⟩ := id hat
  have hpoll := exec_poll (p := p) hwf hat
  rw [hflag, if_neg Bool.false_ne_true] at hpoll
  obtain ⟨hirq, hmasks, hout⟩ := readIntoT_sameOutsideDriver .tctrl 6 s
  refine ⟨_, hpoll, ?_, ?_, hirq, ?_, readIntoT_cb _ _ _, hmasks, hout, ?_, ?_, ?_, readIntoT_history _ _ _⟩
  · simp [State.AtStep, hcall]
  · simp [hstep]
  · simp [SameTimer, hflag]
  · simp [SameContext]
  · rw [readIntoT_bank]
  · rw [readIntoT_bank]

/-- Settles O34: the R ticks bring TCURRENT from 0 to R and down to 1 at the least, and COUNTFLAG rises at 0 only. -/
theorem busyWaitDoesNotReturnEarly : Obligations.BusyWaitDoesNotReturnEarly := by
  intro s p xs hwf hat hd hen hcur hflag hrel hxs hn
  have hwait : Waiting s (xs.count .tick) s := ⟨hat, rfl, rfl, hflag, rfl, rfl, rfl, .inl ⟨hcur, .inr hn⟩⟩
  obtain ⟨t, hrun, h⟩ := waiting_run hwf hd hxs rfl (waiting_withInputs hwait xs)
  exact ⟨t, hrun, h.atStep, h.word, h.countFlag, h.enable.trans hen, h.treload⟩

/-- Settles O35: with reload 0 every tick finds TCURRENT 0 and loads 0 again. -/
theorem busyWaitWithZeroReloadNeverEnds : Obligations.BusyWaitWithZeroReloadNeverEnds := by
  intro s p xs hwf hat hd hcur hflag hrel hxs
  have hwait : Waiting s (xs.count .tick) s := ⟨hat, rfl, rfl, hflag, rfl, rfl, rfl, .inl ⟨hcur, .inl hrel⟩⟩
  obtain ⟨t, hrun, h⟩ := waiting_run hwf hd hxs rfl (waiting_withInputs hwait xs)
  obtain ⟨hzero, -⟩ | ⟨hne, -⟩ := h.quiet
  · exact ⟨t, hrun, h.atStep, h.countFlag, hzero, h.tickPending⟩
  · exact absurd (h.treload.trans hrel) hne

/-- Settles O32: the timer is armed without the interrupt, expires at tick reload + 1, and the poll then goes on to the load of 0
and the result. -/
theorem busyWaitCompletesAfterThePeriod : Obligations.BusyWaitCompletesAfterThePeriod := by
  intro s p hwf hat
  obtain ⟨s1, s2, s3, s4, h1, h2, h3, h4, h5, hp⟩ :=
    run_armTimer (i := .startBusyWait p) (v := reload32 s.cfg p) (g := busyWaitMode s.cfg) hat rfl
  obtain ⟨hen, hint, hclk, hflag, hrel, hcur⟩ := armTimer_registers (reload32 s.cfg p) (busyWaitMode s.cfg) s
  obtain ⟨ben, bint, bclk⟩ := busyWaitMode_bits hwf
  have hframe := armTimer_frame (reload32 s.cfg p) (busyWaitMode s.cfg) s
  have hcb := armTimer_cb (reload32 s.cfg p) (busyWaitMode s.cfg) s
  have hhist := armTimer_history (reload32 s.cfg p) (busyWaitMode s.cfg) s
  have hword : (s.armTimer (reload32 s.cfg p) (busyWaitMode s.cfg)).latchedWord = s.latchedWord := by
    simp [State.latchedWord]
  rw [busyWaitMode_zero] at hhist
  generalize s.armTimer (reload32 s.cfg p) (busyWaitMode s.cfg) = u at *
  obtain ⟨hirq, hmasks, hout⟩ := id hframe
  refine ⟨s1, s2, s3, s4, u, h1, h2, h3, h4, h5, hp.atStep, hword, hen.trans ben, hint.trans bint, hclk.trans bclk, hflag, hcur,
    hrel, hirq, hcb, hmasks, hout, ⟨hp.ctx, hp.handlerActive, hp.other⟩, hhist, fun hne => ?_⟩
  rw [← reload32, ← hrel] at hne ⊢
  obtain ⟨-, hflag', hpend⟩ := ticks_expire_from_zero (hen.trans ben) hcur hne
  rw [hint, bint, Bool.or_false] at hpend
  obtain ⟨hcb', hframe'⟩ := ticks_sameOutsideDriver hpend
  obtain ⟨u1, u2, u3, u4, t, e1, e2, e3, e4, e5, ten, tint, tclk, tflag, trel, tcur, tcb, tframe, hend⟩ :=
    run_busyWait_end hwf (inProgress_ticks hp _) hflag'
  obtain ⟨hirq', hmasks', hout'⟩ := sameOutsideDriver_trans hframe (sameOutsideDriver_trans hframe' tframe)
  exact ⟨u1, u2, u3, u4, t, e1, e2, e3, e4, e5, ten, tint, tclk, tflag, trel, tcur, hirq', tcb.trans (hcb'.trans hcb), hmasks',
    hout', hend⟩

end Sys2Proof.Proofs
end

section
/-! SUPPORT. What a step leaves of the configuration and of the inputs still to come, and the runs this gives (60_exceptions.md
R200). -/

namespace Sys2Proof.Machine

/-- The executing context leaves the configuration and the inputs alone. -/
theorem runContext_keeps {s t : State} (h : s.runContext = .next t) : t.cfg = s.cfg ∧ t.inputs = s.inputs := by
  obtain ⟨-, rfl⟩ | ⟨-, m, -, rfl⟩ := runContext_next h
  · exact ⟨rfl, rfl⟩
  · obtain ⟨-, hcfg, hinputs, -⟩ := perform_sameOutside (m s.lat) s
    exact ⟨hcfg, hinputs⟩

theorem dispatch_keeps (s : State) : s.dispatch.cfg = s.cfg ∧ s.dispatch.inputs = s.inputs := by
  unfold State.dispatch
  split <;> exact ⟨rfl, rfl⟩

theorem callReturn_keeps (s : State) : s.callReturn.cfg = s.cfg ∧ s.callReturn.inputs = s.inputs := by
  unfold State.callReturn
  split <;> exact ⟨rfl, rfl⟩

/-- An input is used up, or waits where it comes too early; no input is added. -/
theorem serve_keeps {s t : State} {input : Input} {rest : List Input} (h : s.serve input rest = .next t) :
    t.cfg = s.cfg ∧ (t.inputs = rest ∨ t.inputs = s.inputs) := by
  cases input with
  | micro => exact (runContext_keeps h).imp_right .inl
  | tick => cases h; exact ⟨(tick_keeps _).1, .inl (tick_inputs _)⟩
  | dispatch => cases h; exact (dispatch_keeps _).imp_right .inl
  | present w =>
    simp only [State.serve] at h
    split at h
    next => cases h; exact ⟨rfl, .inl rfl⟩
    next => exact (runContext_keeps h).imp_right .inr
  | callReturn =>
    simp only [State.serve] at h
    split at h
    next => cases h; exact (callReturn_keeps _).imp_right .inl
    next => exact (runContext_keeps h).imp_right .inr
  | reset => cases h; exact ⟨rfl, .inl rfl⟩
  | unprivileged w => cases h
  | otherMaster sel v => cases h
  | svcHandler w => cases h

/-- The inputs after a step are the last ones of the inputs before it. -/
theorem step_keeps {s t : State} (h : step s = .next t) : t.cfg = s.cfg ∧ t.inputs <:+ s.inputs := by
  unfold step at h
  split at h
  next => exact (runContext_keeps h).imp_right fun (hi : t.inputs = s.inputs) => hi ▸ List.suffix_refl _
  next input rest hin =>
    obtain ⟨hcfg, hi | hi⟩ := serve_keeps h
    · exact ⟨hcfg, by rw [hi, hin]; exact List.suffix_cons input rest⟩
    · exact ⟨hcfg, hi ▸ List.suffix_refl _⟩

/-- One step of a run over admitted inputs: it goes on, and its end is again where such a run can start. -/
theorem admitted_step {s : State} (h : s.Inv) (ha : ∀ x ∈ s.inputs, InputAdmitted x = true) :
    ∃ t, step s = .next t ∧ t.Inv ∧ t.cfg = s.cfg ∧ ∀ x ∈ t.inputs, InputAdmitted x = true := by
  obtain ⟨t, ht⟩ := Proofs.noAdmittedStepStops s h fun x rest hin => ha x (hin ▸ List.mem_cons_self)
  obtain ⟨hcfg, hsuffix⟩ := step_keeps ht
  exact ⟨t, ht, step_inv h ht, hcfg, fun x hx => ha x (hsuffix.subset hx)⟩

end Sys2Proof.Machine

namespace Sys2Proof.Proofs

open Sys2Proof Sys2Proof.Machine

/-- Settles O59, by induction on the length of the run. -/
theorem admittedRunsNeverStop : Obligations.AdmittedRunsNeverStop := by
  intro n
  induction n with
  | zero => exact fun s h ha => ⟨s, rfl, h, rfl, ha⟩
  | succ n ih =>
    intro s h ha
    obtain ⟨t, ht, hinv, hcfg, ha'⟩ := admitted_step h ha
    obtain ⟨u, hu, huinv, hucfg, hua⟩ := ih t hinv ha'
    exact ⟨u, (run_next ht).trans hu, huinv, hucfg.trans hcfg, hua⟩

/-- Settles O60. -/
theorem theThreeOutsideInputsAreRefused : Obligations.TheThreeOutsideInputsAreRefused := by
  intro s w sel v rest
  refine ⟨fun hin => ?_, fun hin => ?_, fun hin => ?_⟩ <;> simp only [step, hin, State.serve]

end Sys2Proof.Proofs
end

section
/-! SUPPORT. The result codes of each operation (60_exceptions.md R202), read off its micro-steps and off the history. -/

namespace Sys2Proof.Machine

/-- The codes an operation can end with (60_exceptions.md R202). -/
def resultCodes : Instr → List ResultCode
  | .enableIRQ _ => [.ok, .errId]
  | .disableIRQ _ => [.ok, .errId]
  | .setPriorityIRQ _ _ => [.ok, .errId, .prioRange]
  | .enableException _ => [.ok, .errId, .nopUnsupported]
  | .disableException _ => [.ok, .errId, .nopUnsupported]
  | .setPriorityException _ _ => [.ok, .errId, .nopUnsupported, .prioRange]
  | .init _ => [.ok]
  | .startBusyWait _ => [.ok]
  | .setCallBack _ => [.ok]
  | .handler => [.ok, .nopNoCallback]
  | .start => [.ok]
  | .stop => [.ok]
  | .deInit => [.ok]

/-- A micro-step whose result, where it is one, is among `codes`. -/
def Micro.EndsIn (codes : List ResultCode) : Micro → Prop
  | .result c => c ∈ codes
  | _ => True

theorem prioResult_mem {codes : List ResultCode} (hok : .ok ∈ codes) (hrange : .prioRange ∈ codes) (p : Word) :
    prioResult p ∈ codes := by
  rw [prioResult_eq]
  split
  · exact hok
  · exact hrange

/-- Every result among the micro-steps of an operation is one of its codes. -/
theorem micros_endsIn (cfg : Config) (i : Instr) : ∀ m ∈ microsOf cfg i, ∀ l, (m l).EndsIn (resultCodes i) := by
  cases i with
  | enableIRQ id => simp only [microsOf, microsEnableIRQ]; split <;> simp [Micro.EndsIn, resultCodes]
  | disableIRQ id => simp only [microsOf, microsDisableIRQ]; split <;> simp [Micro.EndsIn, resultCodes]
  | setPriorityIRQ id p =>
    have hp : prioResult p ∈ resultCodes (.setPriorityIRQ id p) :=
      prioResult_mem (by simp [resultCodes]) (by simp [resultCodes]) p
    simp only [microsOf, microsSetPriorityIRQ]
    split <;> [skip; split]
    · simp [Micro.EndsIn, resultCodes]
    · simp [Micro.EndsIn, resultCodes]
    · simp [Micro.EndsIn, hp]
  | enableException k =>
    simp only [microsOf, microsEnableException]
    split <;> [skip; split] <;> simp [Micro.EndsIn, resultCodes]
  | disableException k =>
    simp only [microsOf, microsDisableException]
    split <;> [skip; split] <;> simp [Micro.EndsIn, resultCodes]
  | setPriorityException k p =>
    have hp : prioResult p ∈ resultCodes (.setPriorityException k p) :=
      prioResult_mem (by simp [resultCodes]) (by simp [resultCodes]) p
    simp only [microsOf, microsSetPriorityException]
    split <;> [skip; split <;> [skip; split]]
    · simp [Micro.EndsIn, resultCodes]
    · simp [Micro.EndsIn, resultCodes]
    · simp [Micro.EndsIn, resultCodes]
    · simp [Micro.EndsIn, hp]
  | handler =>
    have hcall : ∀ f, (handlerCall f).EndsIn (resultCodes .handler) := fun f => by
      cases f with
      | none => simp [handlerCall, Micro.EndsIn, resultCodes]
      | some g => trivial
    simp only [microsOf, microsHandler, List.forall_mem_cons, List.not_mem_nil, false_imp_iff, implies_true, and_true]
    exact ⟨fun _ => trivial, fun l => hcall l.f, fun _ => by simp [Micro.EndsIn, resultCodes]⟩
  | init p => simp [microsOf, microsInit, Micro.EndsIn, resultCodes]
  | startBusyWait p => simp [microsOf, microsStartBusyWait, Micro.EndsIn, resultCodes]
  | setCallBack fn => simp [microsOf, microsSetCallBack, Micro.EndsIn, resultCodes]
  | start => simp [microsOf, microsStart, Micro.EndsIn, resultCodes]
  | stop => simp [microsOf, microsStop, Micro.EndsIn, resultCodes]
  | deInit => simp [microsOf, microsDeInit, Micro.EndsIn, resultCodes]

/-- The oldest event an end of a command records is its result. -/
theorem endEvents_getLast? (s : State) (c : ResultCode) : (endEvents s c).getLast? = some (.result s.ctx s.lat.op c) := by
  unfold endEvents
  split <;> rfl

/-- What is recorded on top of `hist` ends with the event next to `hist`. -/
theorem getLast?_of_append_eq {hist new tail : List Event} {e : Event} (h : new ++ hist = tail ++ e :: hist) :
    new.getLast? = some e := by
  obtain rfl : new = tail ++ [e] := List.append_cancel_right (h.trans (List.append_cons ..))
  exact List.getLast?_concat

/-- A micro-step that records a result of the command in progress, whatever it records after it, is that result. -/
theorem eq_result_of_history {m : Micro} {s : State} {c : ResultCode} {tail : List Event}
    (h : (s.perform m).history = tail ++ .result s.ctx s.lat.op c :: s.history) : m = .result c := by
  by_cases hm : ∃ d, m = .result d
  · obtain ⟨d, rfl⟩ := hm
    rw [perform_result, finish_history] at h
    have hlast := (endEvents_getLast? s d).symm.trans (getLast?_of_append_eq h)
    obtain rfl : d = c := by simpa using hlast
    rfl
  · obtain ⟨e, he, hne⟩ := perform_history (fun d hd => hm ⟨d, hd⟩) s
    rw [he] at h
    exact absurd (Option.some.inj (getLast?_of_append_eq (new := [e]) h)) (hne _ _ _)

theorem exec_result_code {i : Instr} {s t : State} {code : ResultCode} {tail : List Event} (hc : s.canAccept = false)
    (hhist : t.history = tail ++ .result s.ctx s.lat.op code :: s.history) (h : exec i s = .next t) :
    code ∈ resultCodes i := by
  obtain ⟨ha, -⟩ | ⟨-, m, hm, rfl⟩ := exec_next h
  · rw [hc] at ha; cases ha
  · have hends := micros_endsIn s.cfg i m hm s.lat
    rwa [eq_result_of_history hhist] at hends

theorem reservedOpcode_result_code {s t : State} {code : ResultCode} {tail : List Event} (hc : s.canAccept = false)
    (hhist : t.history = tail ++ .result s.ctx s.lat.op code :: s.history) (h : s.reservedOpcode = .next t) :
    code = .errOpcode := by
  obtain ⟨ha, -⟩ | ⟨-, m, hm, -, rfl⟩ := command_next h
  · rw [hc] at ha; cases ha
  · obtain rfl := List.mem_singleton.mp hm
    exact (Micro.result.inj (eq_result_of_history hhist)).symm

end Sys2Proof.Machine

namespace Sys2Proof.Proofs

open Sys2Proof Sys2Proof.Machine

/-- Settles O48: the result recorded is a micro-step of the operation. -/
theorem resultCodesOfEachOperation : Obligations.ResultCodesOfEachOperation := by
  intro i s t code tail hc hhist
  refine ⟨reservedOpcode_result_code hc hhist, fun h => ?_⟩
  have hcode := exec_result_code hc hhist h
  cases i <;> simpa [Instr.opcode, resultCodes] using hcode

end Sys2Proof.Proofs
end

section
/-! SUPPORT. What a tick records, runs of ticks that do not reach 0, and when the dispatch is enabled (60_exceptions.md R210,
R218). -/

namespace Sys2Proof.Machine

/-- Ticks that do not bring TCURRENT to 0 raise nothing. -/
theorem ticks_down {k : Nat} : ∀ {s : State}, s.enable = true → k < s.tcurrent.toNat →
    (s.ticks k).tcurrent.toNat = s.tcurrent.toNat - k ∧ (s.ticks k).countFlag = s.countFlag
      ∧ (s.ticks k).tickPending = s.tickPending := by
  induction k with
  | zero => exact fun _ _ => ⟨rfl, rfl, rfl⟩
  | succ k ih =>
    intro s he hk
    obtain ⟨n, hn⟩ := Nat.exists_eq_add_of_le' (show 2 ≤ s.tcurrent.toNat by omega)
    obtain ⟨hc, hflag, hpend⟩ := tick_down he hn
    obtain ⟨hen, -, -⟩ := tick_mode s
    obtain ⟨hc', hflag', hpend'⟩ := ih (hen.trans he) (show k < s.tick.tcurrent.toNat by omega)
    exact ⟨by rw [State.ticks, hc', hc]; omega, hflag'.trans hflag, hpend'.trans hpend⟩

/-- The new value of TCURRENT is 0 on the 1-to-0 transition only. -/
theorem sub_one_eq_zero_iff_tickExpires (s : State) : s.tcurrent - 1 = 0 ↔ s.tickExpires = true := by
  rw [sub_eq_zero, State.tickExpires, beq_iff_eq]

/-- A tick that counts, as the rule says it: the flags rise where the new value is 0 (60_exceptions.md R218). -/
theorem tick_counts_fields {s : State} (he : s.enable = true) (h0 : s.tcurrent ≠ 0) :
    s.tick.tcurrent = s.tcurrent - 1
      ∧ s.tick.countFlag = (if s.tcurrent - 1 = 0 then true else s.countFlag)
      ∧ s.tick.tickPending = (if s.tcurrent - 1 = 0 ∧ s.tickInt = true then true else s.tickPending) := by
  rw [tick_counts he h0]
  simp only [sub_one_eq_zero_iff_tickExpires]
  cases s.tickExpires <;> simp [Bool.or_comm]

/-- The event of a tick is recorded where the timer counts. -/
theorem tick_history (s : State) :
    s.tick.history = if s.enable = true then .tick :: s.history else s.history := by
  by_cases he : s.enable = true
  · rw [if_pos he]
    by_cases h0 : s.tcurrent = 0
    · rw [tick_reloads he h0]; rfl
    · rw [tick_counts he h0]; rfl
  · rw [if_neg he, tick_stopped (eq_false_of_ne_true he)]

theorem dispatchEnabled_iff (s : State) :
    s.dispatchEnabled = true ↔ s.tickPending = true ∧ s.imask = false ∧ s.fmask = false ∧ s.handlerActive = false
      ∧ s.ctx = .normal := by
  simp [State.dispatchEnabled, and_assoc]

theorem step_dispatch_disabled {s : State} {rest : List Input} (hin : s.inputs = .dispatch :: rest)
    (hen : s.dispatchEnabled = false) : step s = .next (s.withInputs rest) := by
  have hen' : (s.withInputs rest).dispatchEnabled = false := hen
  simp only [step, hin, State.serve, State.dispatch, hen', Bool.false_eq_true, if_false]

end Sys2Proof.Machine

namespace Sys2Proof.Proofs

open Sys2Proof Sys2Proof.Machine

/-- Settles O51: the first tick loads the reload, and each later one counts it down. -/
theorem aReloadOfNCountsNPlusOneTicks : Obligations.AReloadOfNCountsNPlusOneTicks := by
  intro s k he h0 hflag hr
  refine ⟨fun h1 hk => ?_, ticks_expire_from_zero he h0 hr⟩
  obtain ⟨j, rfl⟩ := Nat.exists_eq_add_of_le' h1
  rw [State.ticks, tick_reloads he h0]
  obtain ⟨hc, hflag', hpend⟩ := ticks_down (k := j) (s := State.record .tick { s with tcurrent := s.treload }) he hk
  refine ⟨hc.trans ?_, hflag'.trans hflag, hpend⟩
  simp only [record_tcurrent]
  omega

/-- Settles O52. -/
theorem dispatchEntersTheHandlerExactlyWhenEnabled : Obligations.DispatchEntersTheHandlerExactlyWhenEnabled := by
  intro s rest hin
  refine ⟨fun hp hi hf ha hx => ?_, fun hfail => step_dispatch_disabled hin ?_⟩
  · exact ⟨_, step_dispatch hin ((dispatchEnabled_iff s).mpr ⟨hp, hi, hf, ha, hx⟩), rfl, rfl, rfl, rfl, rfl, rfl, rfl,
      rfl, rfl, ⟨rfl, rfl, rfl, rfl, rfl, rfl⟩, ⟨rfl, rfl, rfl, rfl, rfl, rfl⟩, rfl, ⟨rfl, rfl⟩, rfl, rfl⟩
  · refine eq_false_of_ne_true fun hen => ?_
    obtain ⟨hp, hi, hf, ha, hx⟩ := (dispatchEnabled_iff s).mp hen
    simp [hp, hi, hf, ha, hx] at hfail

/-- Settles O50. -/
theorem theTickRule : Obligations.TheTickRule := by
  intro s rest hin
  obtain ⟨-, -, hcontext, hbank, -⟩ := tick_keeps (s.withInputs rest)
  refine ⟨_, step_tick hin, tick_stopped (s := s.withInputs rest), fun he h0 => ?_, fun he h0 => ?_, ?_⟩
  · rw [tick_reloads (s := s.withInputs rest) he h0]
    exact ⟨rfl, rfl, rfl⟩
  · exact tick_counts_fields (s := s.withInputs rest) he h0
  · have hhist := tick_history (s.withInputs rest)
    obtain ⟨c, f, p, h, heq⟩ := tick_frame (s.withInputs rest)
    rw [heq] at hcontext hbank hhist ⊢
    exact ⟨rfl, rfl, rfl, rfl, ⟨rfl, rfl, rfl, rfl, rfl, rfl⟩, rfl, ⟨rfl, rfl⟩, hcontext, hbank, rfl, rfl, rfl, hhist⟩

end Sys2Proof.Proofs
end

section
/-! SUPPORT. What a write of a register leaves of an earlier write of the same register (20_memory.md R63), and the write
micro-step of a read-modify-write (70_reset_and_hazards.md R250). -/

namespace Sys2Proof.Machine

/-- A write replaces what the same register held; EN and DIS, whose writes add to IEN or take from it, are the exceptions
(10_state.md R31, R32). -/
theorem regWrite_regWrite_self {sel : Selector} (hen : ∀ q, sel ≠ .en q) (hdis : ∀ q, sel ≠ .dis q) (v w : Word) (s : State) :
    (s.regWrite sel v).regWrite sel w = s.regWrite sel w := by
  cases sel with
  | en q => exact absurd rfl (hen q)
  | dis q => exact absurd rfl (hdis q)
  | pri r => simp only [regWrite_pri, Vector.set_set]
  | _ => rfl

/-- SHC and the system priority registers hold the word written in full (10_state.md R36 to R39). -/
theorem regValue_regWrite_system {sel : Selector} (h : sel ∈ [Selector.shc, .syspri1, .syspri2, .syspri3]) (v : Word)
    (s : State) : (s.regWrite sel v).regValue sel = v := by
  cases sel with
  | shc => rfl
  | syspri1 => rfl
  | syspri2 => rfl
  | syspri3 => rfl
  | _ => simp at h

/-- Bit `32 r + j` of IEN is bit `j` of its word `r` (10_state.md R31). -/
theorem ienPlace_wordBit (r : Fin 5) (v : Word) {j : Nat} (h : j < 32) :
    (ienPlace r v).getLsbD (32 * r.val + j) = v.getLsbD j := by
  rw [ienPlace_bit, decide_eq_true (by omega), Bool.true_and, Nat.add_sub_cancel_left]

theorem regWrite_en_sets {r : Fin 5} {v : Word} {j : Nat} (h : j < 32) (hv : v.getLsbD j = true) (s : State) :
    (s.regWrite (.en r) v).ien.getLsbD (32 * r.val + j) = true := by
  rw [regWrite_en_bit, ienPlace_wordBit r v h, hv, Bool.or_true]

theorem regWrite_dis_clears {r : Fin 5} {v : Word} {j : Nat} (h : j < 32) (hv : v.getLsbD j = true) (s : State) :
    (s.regWrite (.dis r) v).ien.getLsbD (32 * r.val + j) = false := by
  rw [regWrite_dis_bit, ienPlace_wordBit r v h, hv, Bool.not_true, Bool.and_false]

/-- The write micro-step leaves the storage as the write does. -/
theorem perform_write_storage (sel : Selector) (v : Word) (s : State) :
    SameStorage (s.regWrite sel v) (s.perform (.write sel v)) := by
  simp [SameStorage, SameIrqController, SamePriorities, SameSystemRegisters, SameTimer, SameMasks, SameOutside,
    perform_write]

theorem perform_write_history (sel : Selector) (v : Word) (s : State) :
    (s.perform (.write sel v)).history = .write s.ctx sel v :: s.history := by
  simp [perform_write]

/-- At its write micro-step a read-modify-write stores `f(T)`: `T` is all it uses (70_reset_and_hazards.md R250). -/
theorem exec_readModifyWrite {i : Instr} {k : Nat} {sel : Selector} {f : Word → Word} {s : State}
    (h : ReadModifyWrite s.cfg i k sel f) (hat : s.AtStep k) :
    exec i s = .next (s.perform (.write sel (f s.lat.t))) := by
  obtain ⟨n, rfl, hm⟩ := readModifyWrite_micro h
  exact exec_at_step hat hm

/-- The same write micro-step after a write that the other context makes between the read and it: `T` is stale
(70_reset_and_hazards.md R250). -/
theorem exec_readModifyWrite_stale {i : Instr} {k : Nat} {sel : Selector} {f : Word → Word} {s : State}
    (h : ReadModifyWrite s.cfg i k sel f) (hat : s.AtStep k) (other : Selector) (v : Word) :
    exec i (s.regWrite other v) = .next ((s.regWrite other v).perform (.write sel (f s.lat.t))) := by
  have hlat : (s.regWrite other v).lat = s.lat := regWrite_lat other v s
  have hat' : (s.regWrite other v).AtStep k := by rwa [State.AtStep, hlat]
  rw [exec_readModifyWrite ((regWrite_cfg other v s).symm ▸ h) hat', hlat]

end Sys2Proof.Machine

namespace Sys2Proof.Proofs

open Sys2Proof Sys2Proof.Machine

/-- Settles O49: with or without the other context's write the same word `f(T)` is written, and each clause says what that
write leaves in its register. -/
theorem aStaleLatchOverwritesTheOtherContext : Obligations.AStaleLatchOverwritesTheOtherContext := by
  intro s i k sel other f v hrmw hat
  have hval := regValue_of_sameStorage (perform_write_storage sel (f s.lat.t) s) sel
  have hstore := perform_write_storage sel (f s.lat.t) (s.regWrite other v)
  have hval' := regValue_of_sameStorage hstore sel
  obtain ⟨⟨hien, -⟩, ⟨hen, hint, hclk, -⟩, -⟩ := hstore
  refine ⟨_, _, exec_readModifyWrite hrmw hat, exec_readModifyWrite_stale hrmw hat other v, perform_write_history _ _ s,
    ?_, fun hsame hnen hndis => ?_, fun r hr => ?_, fun hsys => ?_, fun ht => ?_, fun q hq j hj hbit => ?_,
    fun q hq j hj hbit => ?_⟩
  · rw [perform_write_history, regWrite_ctx, regWrite_history]
  · rw [hval', hval, hsame, regWrite_regWrite_self hnen hndis]
  · rw [hval', hr, regValue_regWrite_pri, regWrite_cfg]
  · rw [hval', regValue_regWrite_system hsys]
  · rw [hen, hint, hclk, ht, regWrite_tctrl, regWrite_cfg]
    exact ⟨rfl, rfl, rfl⟩
  · rw [hien, hq, regWrite_en_sets hj hbit]
  · rw [hien, hq, regWrite_dis_clears hj hbit]

end Sys2Proof.Proofs
end

section
/-! SUPPORT. The reset event (70_reset_and_hazards.md R240). -/

namespace Sys2Proof.Machine

theorem step_reset {s : State} {rest : List Input} (hin : s.inputs = .reset :: rest) :
    step s = .next (s.withInputs rest).resetEvent := by
  simp only [step, hin, State.serve]

theorem resetEvent_pri (s : State) (r : Fin 35) : s.resetEvent.pri.get r = 0 :=
  Vector.getElem_replicate r.isLt

theorem bank_atReset_idle : Bank.atReset.cur.Idle ∧ Bank.atReset.saved = [] ∧ Bank.atReset.res = .ok :=
  ⟨⟨rfl, rfl⟩, rfl, rfl⟩

end Sys2Proof.Machine

namespace Sys2Proof.Proofs

open Sys2Proof Sys2Proof.Machine

/-- Settles O55: the event is served whatever is in progress, and puts both banks at their reset value. -/
theorem theResetEventRestoresTheResetValues : Obligations.TheResetEventRestoresTheResetValues := by
  intro s rest hin
  obtain ⟨hidle, hsaved, hres⟩ := bank_atReset_idle
  exact ⟨_, step_reset hin, rfl, rfl, rfl, resetEvent_pri _, rfl, rfl, rfl, rfl, rfl, rfl, rfl, rfl, rfl, rfl, rfl, rfl,
    rfl, hidle, hidle, hsaved, hsaved, hres, hres⟩

end Sys2Proof.Proofs
end
